-- ==== Sys2Proof/Word.lean ====
section
/-! DEFINITION. Word types of the block (spec/00_scope.md R10, R13): every quantity is an unsigned bit vector of
1, 4, 7, 8 or W_US bits, and a 1-bit value is a Bool (`false = 0`, `true = 1`). -/

namespace Sys2Proof

/-- A payload byte, a PCF8574 port byte or a sample byte: 8 bits (R10). Bit 0 is the least significant (R13). -/
abbrev Byte := BitVec 8

/-- Half a byte: 4 bits (R10). -/
abbrev Nibble := BitVec 4

/-- An I2C peripheral address: 7 bits (R26, R48). -/
abbrev I2cAddress := BitVec 7

/-- `W_US`, the width of a delay argument, 32 (R9; decision D13 of the spec). -/
abbrev wUs : Nat := 32

/-- A number of microseconds, `0 <= n < 2^W_US` (R14). -/
abbrev Microseconds := BitVec wUs

end Sys2Proof
end

