-- ==== Sys2Proof/Config.lean ====
section
/-! DEFINITION. The configuration, fixed when an instance is constructed (spec/00_scope.md R8, R9), the shape of an
environment's answer (spec/20_memory.md R44), and the values the spec leaves open: opaque constants with no body
that a proof could use. -/

namespace Sys2Proof

/-- The eight roles a bit of the port byte can carry (spec/10_state.md R24). -/
inductive Role where
  | rs | rnw | en | bl | d4 | d5 | d6 | d7
deriving DecidableEq, Repr

/-- `PINMAP`: a bit position for each role (R24, R71), written `(RS, RNW, EN, BL, D4, D5, D6, D7)`.
That the eight positions are distinct is `PinMap.wf` (R25). -/
structure PinMap where
  rs  : Fin 8
  rnw : Fin 8
  en  : Fin 8
  bl  : Fin 8
  d4  : Fin 8
  d5  : Fin 8
  d6  : Fin 8
  d7  : Fin 8
deriving DecidableEq, Repr

/-- `pos(X)` of R24. -/
def PinMap.pos (m : PinMap) : Role → Fin 8
  | .rs => m.rs
  | .rnw => m.rnw
  | .en => m.en
  | .bl => m.bl
  | .d4 => m.d4
  | .d5 => m.d5
  | .d6 => m.d6
  | .d7 => m.d7

/-- The default, or conventional, PinMap (spec/30_encoding.md R72). -/
def PinMap.conventional : PinMap := ⟨0, 1, 2, 3, 4, 5, 6, 7⟩

/-- `MAPPING_POLICY` (R9): `conventional` forces the default PinMap and changes no output (spec/40_encoder.md R104). -/
inductive MappingPolicy where
  | custom
  | conventional
deriving DecidableEq, Repr

/-- `CMD_FS4`, a function of two 1-bit arguments (R9), as its four values: plain data. -/
structure FunctionSet4 where
  oneLine5x8  : Byte
  oneLine5x10 : Byte
  twoLine5x8  : Byte
  twoLine5x10 : Byte
deriving DecidableEq, Repr

/-- The parameters of one instance (R9). `W_US` is the width of `Microseconds`; `N_MAX` is unbounded, so no field
holds it. -/
structure Params where
  /-- `PINMAP`. -/
  pinMap        : PinMap
  /-- `MAPPING_POLICY`. -/
  policy        : MappingPolicy
  /-- `I2C_ADDR`. -/
  i2cAddr       : I2cAddress
  /-- `BL_INIT`. -/
  blInit        : Bool
  /-- `CMD_FS8`: of it only the high nibble is ever sent (spec/41_protocol_driver.md R123). -/
  cmdFs8        : Byte
  /-- `CMD_FS4(lineMode, fontMode)`. -/
  cmdFs4        : FunctionSet4
  /-- `READ_PRIME_DATA`: the payload of the frame that primes a read. -/
  readPrimeData : Byte
  /-- `INIT_FINAL_LEN`: how many bytes of its frame the last write of INITIALIZE sends. -/
  initFinalLen  : Nat
deriving DecidableEq, Repr

/-- The geometry and the command bytes of the convenience layer, outside the block
(spec/42_display_layer.md R160, R164, R166). -/
structure LayerParams where
  rows        : Nat
  cols        : Nat
  lineMode    : Bool
  fontMode    : Bool
  cmdClear    : Byte
  cmdHome     : Byte
  cmdSetDdram : Byte
deriving DecidableEq, Repr

/-- What the environment answers to one I2C primitive (spec/20_memory.md R44). -/
inductive EnvAnswer where
  /-- `ok`; for a read transaction the two sample bytes, any values (a write ignores them). -/
  | ok (sample0 sample1 : Byte)
  /-- `fail`, after `reached` of the primitive's written bytes arrived at `PORT`: any number; the block does not learn
  it. -/
  | fail (reached : Nat)
deriving DecidableEq, Repr, Inhabited

/-- The answer is `ok`. -/
def EnvAnswer.isOk : EnvAnswer → Bool
  | .ok _ _ => true
  | .fail _ => false

/-- `CMD_FS4(lineMode, fontMode) = 0x20 + 8*lineMode + 4*fontMode`, the default (R9; G2 of
spec/93_implementation_defined.md). PRESUMED by the spec from general knowledge: notes/assumptions/4.md. -/
def Config.defaultFunctionSet4 : FunctionSet4 := ⟨0x20#8, 0x24#8, 0x28#8, 0x2C#8⟩

/-- `BL_INIT` of the instance `State.reset` describes: OPEN in the spec (D3), so no value is chosen. -/
opaque Config.blInit : Bool

/-- `I2C_ADDR` of the instance `State.reset` describes: OPEN in the spec (D5), so no value is chosen. -/
opaque Config.i2cAddr : I2cAddress

/-- `PORT` before the first write: unspecified (spec/10_state.md R31, R35; D14). -/
opaque Config.portPowerOn : Byte

/-- The environment's answer to draw number `n`, where no answer has been supplied in advance: free (R44). -/
opaque Config.freeAnswer : Nat → EnvAnswer

/-- The DDRAM address of `(row, col)` in one-line mode: `ADDR_FN`, OPEN in the spec (spec/42_display_layer.md R162,
D25). -/
opaque Config.oneLineAddress : Nat → Nat → Nat

/-- The command byte POSITION sends for an address of more than 7 bits: the spec states none (R162, R164). -/
opaque Config.freeDdramCommand : Nat → Byte

/-- The three bits of a glyph row's byte beside its five significant bits, for the row sent when the trace has this many
entries: not in the source (R168). -/
opaque Config.freeGlyphBits : Nat → BitVec 3

/-- Whether formatted printing of these character codes fails with FormatError: the buffer's size is not in the source
(R169). -/
opaque Config.formatFails : List Byte → Bool

/-- How many leading character codes are sent when formatted printing fails: not in the source (R169). -/
opaque Config.formatSent : List Byte → Nat

/-- The defaults of R9, with a given address and initial backlight flag. -/
def Config.defaults (addr : I2cAddress) (bl : Bool) : Params where
  pinMap := PinMap.conventional
  policy := .custom
  i2cAddr := addr
  blInit := bl
  cmdFs8 := 0x30#8
  cmdFs4 := Config.defaultFunctionSet4
  readPrimeData := 0xFF#8
  initFinalLen := 4

/-- The parameters of the instance `State.reset` describes: every default of R9, and the two OPEN parameters open. -/
def Config.params : Params := Config.defaults Config.i2cAddr Config.blInit

/-- The layer's command bytes, from the spec's general-knowledge defaults (G3, G4), with a given geometry. -/
def Config.layerDefaults (rows cols : Nat) (lineMode fontMode : Bool) : LayerParams where
  rows := rows
  cols := cols
  lineMode := lineMode
  fontMode := fontMode
  cmdClear := 0x01#8
  cmdHome := 0x02#8
  cmdSetDdram := 0x80#8

end Sys2Proof
end

