-- ==== Sys2Proof/Machine/Operands.lean ====
section
/-! DEFINITION. Operand assembly (spec/30_encoding.md R78 to R80, R82 to R85): bit placement and bit selection under a
PinMap, nibble split and join, list slices, and the frames the block strings port bytes into (R74 to R77). -/

namespace Sys2Proof.Machine

/-- `v << pos`, as a byte: the bit `v` placed at one position (R78). -/
def bitAt (p : Fin 8) (v : Bool) : Byte := bif v then 1#8 <<< p.val else 0#8

/-- The value of a role in a port byte: `b[pos(X)]` (R70). -/
def roleBit (m : PinMap) (r : Role) (b : Byte) : Bool := b.getLsbD (m.pos r).val

/-- `port(rs, rnw, en, bl, n)`, the marshal function (R78), in its form as a sum of placed bits. -/
def port (m : PinMap) (rs rnw en bl : Bool) (n : Nibble) : Byte :=
  bitAt m.rs rs ||| bitAt m.rnw rnw ||| bitAt m.en en ||| bitAt m.bl bl
    ||| bitAt m.d4 (n.getLsbD 0) ||| bitAt m.d5 (n.getLsbD 1)
    ||| bitAt m.d6 (n.getLsbD 2) ||| bitAt m.d7 (n.getLsbD 3)

/-- `nib(s)`, the unmarshal function (R79): `{s[pos(D7)], s[pos(D6)], s[pos(D5)], s[pos(D4)]}`. -/
def nib (m : PinMap) (s : Byte) : Nibble :=
  BitVec.ofBool (roleBit m .d7 s) ++ BitVec.ofBool (roleBit m .d6 s)
    ++ BitVec.ofBool (roleBit m .d5 s) ++ BitVec.ofBool (roleBit m .d4 s)

/-- `data[7:4]` (R80). -/
def hiNibble (data : Byte) : Nibble := data.extractLsb' 4 4

/-- `data[3:0]` (R80). -/
def loNibble (data : Byte) : Nibble := data.extractLsb' 0 4

/-- `{hi, lo}`, the high nibble first (R80, spec/20_memory.md R56). -/
def joinNibbles (hi lo : Nibble) : Byte := hi ++ lo

/-- `l[i..j]`, the half-open slice: elements `i` to `j-1` (spec/00_scope.md R13). -/
def slice (l : List Byte) (i j : Nat) : List Byte := (l.drop i).take (j - i)

/-- `encode(rs, rnw, bl, data)`: the 4-byte BusFrame (spec/40_encoder.md R100, spec/30_encoding.md R74). -/
def encodeFrame (m : PinMap) (rs rnw bl : Bool) (data : Byte) : List Byte :=
  [port m rs rnw true bl (hiNibble data), port m rs rnw false bl (hiNibble data),
    port m rs rnw true bl (loNibble data), port m rs rnw false bl (loNibble data)]

/-- `decodeData(sample0, sample1)` (spec/40_encoder.md R101). -/
def decodeData (m : PinMap) (sample0 sample1 : Byte) : Byte :=
  joinNibbles (nib m sample0) (nib m sample1)

/-- The frame by the conventional policy's own formulas (spec/40_encoder.md R104). -/
def conventionalFrame (rs rnw bl : Bool) (data : Byte) : List Byte :=
  let flags : Byte := bitAt 0 rs ||| bitAt 1 rnw ||| bitAt 3 bl
  [(data &&& 0xF0#8) ||| flags ||| 0x04#8, (data &&& 0xF0#8) ||| flags,
    ((data <<< 4) &&& 0xF0#8) ||| flags ||| 0x04#8, ((data <<< 4) &&& 0xF0#8) ||| flags]

/-- The decoding by the conventional policy's own formula (R104). -/
def conventionalDecode (sample0 sample1 : Byte) : Byte := (sample0 &&& 0xF0#8) ||| (sample1 >>> 4)

/-- The idle byte of SET_BACKLIGHT: `port(0, 0, 0, on, 0b0000)` (spec/41_protocol_driver.md R132). -/
def idlePortByte (m : PinMap) (on : Bool) : Byte := port m false false false on 0#4

/-- `CMD_FS4(lineMode, fontMode)` (spec/00_scope.md R9, spec/30_encoding.md R84). -/
def functionSet4 (t : FunctionSet4) (lineMode fontMode : Bool) : Byte :=
  match lineMode, fontMode with
  | false, false => t.oneLine5x8
  | false, true => t.oneLine5x10
  | true, false => t.twoLine5x8
  | true, true => t.twoLine5x10

/-- The half frame INITIALIZE sends three times: `p[0..2]` of the frame of `CMD_FS8` (R76; R121 steps 1, 3, 5). -/
def initHalfFrame (p : Params) (bl : Bool) : List Byte :=
  slice (encodeFrame p.pinMap false false bl p.cmdFs8) 0 2

/-- The last write of INITIALIZE: `q[0..INIT_FINAL_LEN]` of the frame of `CMD_FS4` (R121 step 6). -/
def initFinalFrame (p : Params) (bl lineMode fontMode : Bool) : List Byte :=
  slice (encodeFrame p.pinMap false false bl (functionSet4 p.cmdFs4 lineMode fontMode)) 0 p.initFinalLen

/-- The frame SEND_BYTE writes: `p[0..4]`, with RNW = 0 and BL from the session (R120, R124). -/
def sendFrameBytes (p : Params) (bl rs : Bool) (data : Byte) : List Byte :=
  slice (encodeFrame p.pinMap rs false bl data) 0 4

end Sys2Proof.Machine
end

