-- ==== Sys2Proof/Syntax.lean ====
section
/-! DEFINITION. The instructions: one constructor per row of spec/opcode_table.json, in the table's order.
The first nine are the operations of the block (spec/30_encoding.md R86), with the operand fields of R82.
The last three are the kinds of port byte (R73), the table's PORT_BYTE rows: bytes put on the expander's port. -/

namespace Sys2Proof

/-- One row of the opcode table with its operands. -/
inductive Instr where
  /-- ENCODE (R100): `encode(registerSelect, readNotWrite, backlight, data)`. -/
  | encode (rs rnw bl : Bool) (data : Byte)
  /-- DECODE (R101): `decodeData(sample0, sample1)`. -/
  | decode (sample0 sample1 : Byte)
  /-- INITIALIZE (R121): `lineMode` 0 one line, 1 two lines; `fontMode` 0 5x8 dots, 1 5x10 dots (R82, R84). -/
  | initialise (lineMode fontMode : Bool)
  /-- SEND_BYTE (R124): `sendByte(registerSelect, byte)`. -/
  | sendByte (rs : Bool) (data : Byte)
  /-- SEND_BYTES (R125): `n` and the `n` bytes, in order; `n = 0` is allowed. -/
  | sendBytes (rs : Bool) (n : Nat) (bytes : List Byte)
  /-- RECEIVE_BYTE (R126): `receiveByte(registerSelect, out byte)`. -/
  | receiveByte (rs : Bool)
  /-- RECEIVE_BYTES (R129): `n` is the length of the host's output buffer. -/
  | receiveBytes (rs : Bool) (n : Nat)
  /-- SET_BACKLIGHT (R132): `setBacklight(on)`. -/
  | setBacklight (on : Bool)
  /-- DELAY (R133): `delay(microseconds)`. -/
  | delay (us : Microseconds)
  /-- STROBE_HIGH_BYTE (R73): a port byte with EN = 1. -/
  | strobeHighByte (rs rnw bl : Bool) (nibble : Nibble)
  /-- STROBE_LOW_BYTE (R73): the port byte with EN = 0 that follows a strobe-high byte. -/
  | strobeLowByte (rs rnw bl : Bool) (nibble : Nibble)
  /-- IDLE_BYTE (R73): the port byte with only BL as given and every other role 0. -/
  | idleByte (bl : Bool)
deriving DecidableEq, Repr

/-- Whether the row is one of the nine operations a host can issue (R86); the other three are wire formats. -/
def Instr.isOperation : Instr → Bool
  | .encode _ _ _ _ => true
  | .decode _ _ => true
  | .initialise _ _ => true
  | .sendByte _ _ => true
  | .sendBytes _ _ _ => true
  | .receiveByte _ => true
  | .receiveBytes _ _ => true
  | .setBacklight _ => true
  | .delay _ => true
  | .strobeHighByte _ _ _ _ => false
  | .strobeLowByte _ _ _ _ => false
  | .idleByte _ => false

end Sys2Proof
end

