-- ==== Sys2Proof/WellFormed.lean ====
section
/-! DEFINITION. Well-formed instructions and configurations. An ill-formed instruction is refused by the decoder, an
ill-formed configuration by construction (spec/60_exceptions.md R183, spec/30_encoding.md R89). -/

namespace Sys2Proof

/-- The eight positions, in the order in which R71 writes a PinMap. -/
def PinMap.positions (m : PinMap) : List (Fin 8) :=
  [m.rs, m.rnw, m.en, m.bl, m.d4, m.d5, m.d6, m.d7]

/-- The PinMap invariant (spec/10_state.md R25): "all 8 positions are distinct and cover the full byte". Eight distinct
positions among eight cover the byte. -/
def PinMap.wf (m : PinMap) : Bool := decide m.positions.Nodup

/-- A PinMap from eight numbers as a board file would give them: `none` unless there are eight, each in 0..7 and all
distinct (R25, R89). -/
def PinMap.ofPositions : List Nat → Option PinMap
  | [a, b, c, d, e, f, g, h] =>
    if hlt : a < 8 ∧ b < 8 ∧ c < 8 ∧ d < 8 ∧ e < 8 ∧ f < 8 ∧ g < 8 ∧ h < 8 then
      let m : PinMap :=
        ⟨⟨a, hlt.1⟩, ⟨b, hlt.2.1⟩, ⟨c, hlt.2.2.1⟩, ⟨d, hlt.2.2.2.1⟩, ⟨e, hlt.2.2.2.2.1⟩,
          ⟨f, hlt.2.2.2.2.2.1⟩, ⟨g, hlt.2.2.2.2.2.2.1⟩, ⟨h, hlt.2.2.2.2.2.2.2⟩⟩
      if m.wf then some m else none
    else none
  | _ => none

/-- Whether a configuration is one an instance can be constructed with: a permutation for a PinMap (R25), the default
PinMap under the conventional policy (R9), and a last INITIALIZE write that is not empty (R14, R42) and lies within its
4-byte frame. -/
def Params.wf (p : Params) : Bool :=
  p.pinMap.wf
    && (p.policy == .custom || p.pinMap == PinMap.conventional)
    && (decide (0 < p.initFinalLen) && decide (p.initFinalLen ≤ 4))

/-- The configuration of the reset instance is valid, whatever its OPEN parameters are. -/
theorem Config.params_wf : Config.params.wf = true := by decide

/-- Whether an instruction is well formed: SEND_BYTES carries exactly the `n` bytes it announces (R82). Every other
operand is bounded by its type. -/
def Instr.wf : Instr → Bool
  | .encode _ _ _ _ => true
  | .decode _ _ => true
  | .initialise _ _ => true
  | .sendByte _ _ => true
  | .sendBytes _ n bytes => bytes.length == n
  | .receiveByte _ => true
  | .receiveBytes _ _ => true
  | .setBacklight _ => true
  | .delay _ => true
  | .strobeHighByte _ _ _ _ => true
  | .strobeLowByte _ _ _ _ => true
  | .idleByte _ => true

end Sys2Proof
end

