-- ==== Sys2Proof/Decode.lean ====
section
/-! DEFINITION. What arrives at the block and at the port, decoding it, and encoding it. An operation arrives on the
host command interface as a 4-bit op code and separate operand fields (spec/30_encoding.md R82, R85, R86): nothing is
packed into a word. A port byte arrives on the wire as one byte of an I2C write (R73, R76). Decoding is total. -/

namespace Sys2Proof

/-- The fields of the host command interface (R82). Each operation reads the fields the table gives it and ignores the
others. -/
structure HostCommand where
  op       : BitVec 4
  rs       : Bool
  rnw      : Bool
  bl       : Bool
  on       : Bool
  data     : Byte
  sample0  : Byte
  sample1  : Byte
  lineMode : Bool
  fontMode : Bool
  us       : Microseconds
  n        : Nat
  bytes    : List Byte
deriving DecidableEq, Repr

/-- What is presented next: an operation with its operands on the host command interface (spec/20_memory.md R41), or one
byte on its way to the expander's port, `alone` when it is the only byte of its I2C write. A receiver tells the forms of
port byte apart by the length of the write (R76). -/
inductive Request where
  | command (c : HostCommand)
  | portByte (alone : Bool) (value : Byte)
deriving DecidableEq, Repr

/-- Why a request names no well-formed instruction. -/
inductive DecodeError where
  /-- Op codes 9 to 15 name no operation (R87). -/
  | reservedOpCode (op : BitVec 4)
  /-- SEND_BYTES announces `n` bytes and presents another number of them (R82). -/
  | operandLengthMismatch (n present : Nat)
deriving DecidableEq, Repr

/-- A command with op code `op` and every other field 0 or empty. -/
def HostCommand.blank (op : BitVec 4) : HostCommand where
  op := op
  rs := false
  rnw := false
  bl := false
  on := false
  data := 0#8
  sample0 := 0#8
  sample1 := 0#8
  lineMode := false
  fontMode := false
  us := 0#32
  n := 0
  bytes := []

/-- Operation select (R86): op codes 0 to 8 in the source's order, 9 to 15 reserved (R87). -/
def decodeCommand (c : HostCommand) : Except DecodeError Instr :=
  match c.op.toNat with
  | 0 => .ok (.encode c.rs c.rnw c.bl c.data)
  | 1 => .ok (.decode c.sample0 c.sample1)
  | 2 => .ok (.initialise c.lineMode c.fontMode)
  | 3 => .ok (.sendByte c.rs c.data)
  | 4 =>
    if c.bytes.length = c.n then .ok (.sendBytes c.rs c.n c.bytes)
    else .error (.operandLengthMismatch c.n c.bytes.length)
  | 5 => .ok (.receiveByte c.rs)
  | 6 => .ok (.receiveBytes c.rs c.n)
  | 7 => .ok (.setBacklight c.on)
  | 8 => .ok (.delay c.us)
  | _ => .error (.reservedOpCode c.op)

/-- The kind of a port byte and its roles under the PinMap (R70, R73). EN = 1 is a strobe-high byte. EN = 0 is the idle
byte if the byte is alone in its write and every role but BL is 0, and a strobe-low byte otherwise (R76). -/
def decodePortByte (m : PinMap) (alone : Bool) (b : Byte) : Instr :=
  let rs := Machine.roleBit m .rs b
  let rnw := Machine.roleBit m .rnw b
  let bl := Machine.roleBit m .bl b
  let n := Machine.nib m b
  if Machine.roleBit m .en b then .strobeHighByte rs rnw bl n
  else if alone && !rs && !rnw && n == 0#4 then .idleByte bl
  else .strobeLowByte rs rnw bl n

/-- The decoder: total, and rejecting by name. -/
def decode (m : PinMap) : Request → Except DecodeError Instr
  | .command c => decodeCommand c
  | .portByte alone b => .ok (decodePortByte m alone b)

/-- The encoder: the op code of R86 with the operand fields of R82, or the port byte of R73 and R78. -/
def encode (m : PinMap) : Instr → Request
  | .encode rs rnw bl data =>
    .command { HostCommand.blank 0#4 with rs := rs, rnw := rnw, bl := bl, data := data }
  | .decode s0 s1 => .command { HostCommand.blank 1#4 with sample0 := s0, sample1 := s1 }
  | .initialise l f => .command { HostCommand.blank 2#4 with lineMode := l, fontMode := f }
  | .sendByte rs data => .command { HostCommand.blank 3#4 with rs := rs, data := data }
  | .sendBytes rs n bytes => .command { HostCommand.blank 4#4 with rs := rs, n := n, bytes := bytes }
  | .receiveByte rs => .command { HostCommand.blank 5#4 with rs := rs }
  | .receiveBytes rs n => .command { HostCommand.blank 6#4 with rs := rs, n := n }
  | .setBacklight on => .command { HostCommand.blank 7#4 with on := on }
  | .delay us => .command { HostCommand.blank 8#4 with us := us }
  | .strobeHighByte rs rnw bl n => .portByte false (Machine.port m rs rnw true bl n)
  | .strobeLowByte rs rnw bl n => .portByte false (Machine.port m rs rnw false bl n)
  | .idleByte bl => .portByte true (Machine.idlePortByte m bl)

/-- The op code of an operation (R86); a port byte has none. -/
def Instr.opCode : Instr → Option (BitVec 4)
  | .encode _ _ _ _ => some 0#4
  | .decode _ _ => some 1#4
  | .initialise _ _ => some 2#4
  | .sendByte _ _ => some 3#4
  | .sendBytes _ _ _ => some 4#4
  | .receiveByte _ => some 5#4
  | .receiveBytes _ _ => some 6#4
  | .setBacklight _ => some 7#4
  | .delay _ => some 8#4
  | .strobeHighByte _ _ _ _ => none
  | .strobeLowByte _ _ _ _ => none
  | .idleByte _ => none

/-- The op code a request carries on the host command interface. -/
def Request.opCode : Request → Option (BitVec 4)
  | .command c => some c.op
  | .portByte _ _ => none

/-- A word of the opcode table as a request. The table's OP rows are 4 bits wide and its PORT_BYTE rows 8 bits wide, and
their words overlap below 16: such a word is read as an op code, with every operand field 0, and a word from 16 to 255 as
a port byte among others. DESIGN CHOICE: notes/assumptions/9.md. -/
def tableRequest (nbits w : Nat) : Option Request :=
  if 2 ^ nbits ≤ w then none
  else if w < 16 then some (.command (HostCommand.blank (BitVec.ofNat 4 w)))
  else if w < 256 then some (.portByte false (BitVec.ofNat 8 w))
  else none

/-- What the decoder reads from a word of the opcode table, port bytes under the default PinMap (the table's
patterns). -/
def decodeTableWord (nbits w : Nat) : Option Instr :=
  match tableRequest nbits w with
  | some r =>
    match decode PinMap.conventional r with
    | .ok i => some i
    | .error _ => none
  | none => none

end Sys2Proof
end

