-- ==== Sys2Proof/Machine/State.lean ====
section
/-! DEFINITION. The state of the block and of what the spec names outside it, as plain data (spec/10_state.md R20 to R35,
spec/20_memory.md R46), the reasons a step can stop, and the state after reset (spec/70_reset_and_hazards.md R210). -/

namespace Sys2Proof.Machine

/-- The status codes (spec/30_encoding.md R83): the last two belong to the convenience layer alone. -/
inductive Status where
  | ok
  | transportError
  | formatError
  | rangeError
deriving DecidableEq, Repr

/-- What an operation answers to the host (R83): its status and the bytes of its value, none for an operation without a
value. -/
structure Response where
  status : Status
  value  : List Byte
deriving DecidableEq, Repr

/-- One operation of an I2C transaction (spec/00_scope.md R14): `Write(bytes)` or `Read(n)`. -/
inductive BusOp where
  | write (bytes : List Byte)
  | read (n : Nat)
deriving DecidableEq, Repr

/-- One external action with the environment's answer, an entry of the trace (R14, R46). Both I2C primitives hand over
the address they are for (spec/20_memory.md R42). -/
inductive Action where
  /-- `W(bytes):ok` or `W(bytes):fail`. -/
  | write (addr : I2cAddress) (bytes : List Byte) (ok : Bool)
  /-- `T(ops):ok(samples)`, the byte lists of its reads in order, or `T(ops):fail` (`none`). -/
  | transaction (addr : I2cAddress) (ops : List BusOp) (samples : Option (List (List Byte)))
  /-- `D(n)`. -/
  | delay (us : Microseconds)
deriving DecidableEq, Repr

/-- A falling edge of EN at the port: the port byte before it and the port byte that lowered EN. A write latches the
nibble here (spec/20_memory.md R51), and a read ends one nibble here (R52). -/
structure Strobe where
  high : Byte
  low  : Byte
deriving DecidableEq, Repr

/-- Which half of a byte the controller takes next (spec/10_state.md R32). -/
inductive NibbleHalf where
  | high
  | low
deriving DecidableEq, Repr

/-- The controller's bus mode and, in 4-bit mode, its nibble phase (R32). `unknown` is any value of both: at power-on and
after a failure (U1, U3, U7 of spec/93_implementation_defined.md). -/
inductive ControllerBus where
  | unknown
  | eightBit
  | fourBit (next : NibbleHalf)
deriving DecidableEq, Repr

/-- The environment's answers, inputs to every step (R34): those supplied in advance, oldest first, and how many answers
were free draws because none was supplied. MODEL'S OWN: notes/assumptions/2.md. -/
structure Environment where
  script : List EnvAnswer
  drawn  : Nat
deriving DecidableEq, Repr

/-- An external action still to be issued by a running operation (spec/10_state.md R22). -/
inductive Planned where
  /-- A write of strobe pairs, and the controller state the source says it reaches, where it says one. -/
  | strobed (bytes : List Byte) (reach : Option ControllerBus)
  /-- The one-byte write of SET_BACKLIGHT. -/
  | idle (byte : Byte)
  /-- The read transaction of RECEIVE_BYTE. -/
  | read (ops : List BusOp)
  /-- A delay request. -/
  | delay (us : Microseconds)
deriving DecidableEq, Repr

/-- The sequencer position (R22): idle between operations; while one runs, the actions it has still to issue and the
bytes it has received. -/
inductive Sequencer where
  | idle
  | running (op : Instr) (rest : List Planned) (received : List Byte)
deriving DecidableEq, Repr

/-- Everything that changes while an instance lives: the session state of the block, its interfaces, and the state outside
it that rules mention. The configuration is not in it (spec/00_scope.md R8, spec/10_state.md R34). -/
structure Session where
  /-- `BL`, the backlight flag (R27). -/
  bl          : Bool
  /-- `INITIALIZED`, the ghost bit (R28). -/
  initialized : Bool
  /-- The sequencer position (R22). -/
  seq         : Sequencer
  /-- The operations the host will present, in order (R12, R41; spec/30_encoding.md R91). -/
  requests    : List Request
  /-- What the block has answered to the host, oldest first (R41, R83). The block itself stores no result (R23). -/
  results     : List Response
  /-- The trace since construction, oldest first (R46). -/
  trace       : List Action
  /-- The environment's answers (R34, R44). -/
  env         : Environment
  /-- `PORT`, the PCF8574 output byte (R31, R49). -/
  port        : Byte
  /-- The falling edges of EN the port has seen, oldest first (R51, R52, R61). -/
  strobes     : List Strobe
  /-- The controller's bus mode and nibble phase (R32). -/
  controller  : ControllerBus
deriving DecidableEq, Repr

/-- A session under a configuration. `exec` and `step` have no other argument to take the configuration by; the machine
that takes it as an argument is `machine` in Machine/Instance.lean (notes/assumptions/3.md). -/
structure State extends Session where
  /-- The configuration (R20, R24 to R26): nothing writes it after construction (R8). -/
  cfg         : Params
deriving DecidableEq, Repr

/-- No step of this machine faults: the block never halts, hangs or resets itself on an error (spec/60_exceptions.md
R185), and an error of the transport is a result (R186). Nothing raises a fault; safe. -/
inductive Fault where
deriving DecidableEq, Repr

/-- Why a step gives a request no meaning. -/
inductive Refusal where
  /-- An instruction with no meaning yet, raised by its arm of `exec` alone; safe. -/
  | notModelled (mnemonic : String)
  /-- Op codes 9 to 15, raised by the decoder in `step`: no external action, no state change, no result
  (spec/30_encoding.md R87); safe. -/
  | reservedOpCode (op : BitVec 4)
  /-- SEND_BYTES announcing another number of bytes than it presents, raised by the decoder in `step`: no such command is
  in the interface's format (R82); safe. -/
  | operandLengthMismatch (n present : Nat)
deriving DecidableEq, Repr

/-- An instance right after construction with parameters `p` (spec/70_reset_and_hazards.md R210, spec/10_state.md R35):
`BL = BL_INIT`, `INITIALIZED = false`, idle, an empty trace, the port and the controller as they were. A valid configuration
is its precondition (spec/60_exceptions.md R183). -/
def State.init (p : Params) (_valid : p.wf = true) : State where
  cfg := p
  bl := p.blInit
  initialized := false
  seq := .idle
  requests := []
  results := []
  trace := []
  env := ⟨[], 0⟩
  port := Config.portPowerOn
  strobes := []
  controller := .unknown

/-- Construction (R210) with the check made: refused for an invalid configuration (R183, spec/30_encoding.md R89). -/
def State.construct (p : Params) : Option State := if valid : p.wf = true then some (State.init p valid) else none

/-- The machine right after reset: an instance with the defaults of R9, its OPEN parameters left open. -/
def State.reset : State := State.init Config.params Config.params_wf

end Sys2Proof.Machine
end

