-- ==== Sys2Proof/Machine/Flags.lean ====
section
/-! DEFINITION. The block has no flags and no condition codes (spec/10_state.md R23). What an operation reports is its
status, whose numbers are here (spec/30_encoding.md R83), and the fields of a status byte it read, which it does not
interpret (spec/20_memory.md R53). -/

namespace Sys2Proof.Machine

/-- The status codes (R83). -/
def Status.code : Status → Nat
  | .ok => 0
  | .transportError => 1
  | .formatError => 2
  | .rangeError => 3

/-- `v[7]` of the byte a status read returned: the controller's busy flag (R53, spec/41_protocol_driver.md R128). -/
def busyFlag (v : Byte) : Bool := v.getLsbD 7

/-- `v[6:0]` of the byte a status read returned: the address counter (R53, R128). -/
def addressCounter (v : Byte) : BitVec 7 := v.extractLsb' 0 7

end Sys2Proof.Machine
end

