-- ==== Sys2Proof/Machine/Ops.lean ====
section
/-! DEFINITION. The shared operations: the environment's answers, the port and the falling edges of EN, the external
primitives (spec/00_scope.md R14), answering the host, and stopping on a transport error (spec/60_exceptions.md R186),
which is this block's taking of an exception. There is no return from it: recovery is a new INITIALIZE (R189). -/

namespace Sys2Proof.Machine

/-- The environment's next answer: the oldest supplied in advance, or a free one (spec/20_memory.md R44). -/
def Environment.answer (e : Environment) : EnvAnswer :=
  match e.script with
  | a :: _ => a
  | [] => Config.freeAnswer e.drawn

/-- The environment after giving one answer. -/
def Environment.next (e : Environment) : Environment :=
  match e.script with
  | _ :: rest => { e with script := rest }
  | [] => { e with drawn := e.drawn + 1 }

/-- The environment after giving `k` answers. -/
def Environment.after : Nat → Environment → Environment
  | 0, e => e
  | k + 1, e => Environment.after k e.next

/-- The next `k` answers, in order. -/
def Environment.answers : Nat → Environment → List EnvAnswer
  | 0, _ => []
  | k + 1, e => e.answer :: Environment.answers k e.next

/-- Set `BL`. -/
def State.setBl (v : Bool) (s : State) : State := { s with bl := v }

/-- Set `INITIALIZED`. -/
def State.setInitialized (v : Bool) (s : State) : State := { s with initialized := v }

/-- Move the sequencer. -/
def State.setSeq (q : Sequencer) (s : State) : State := { s with seq := q }

/-- Replace what the host will present. -/
def State.setRequests (r : List Request) (s : State) : State := { s with requests := r }

/-- Replace the environment's answers. -/
def State.setEnv (e : Environment) (s : State) : State := { s with env := e }

/-- Record what is known of the controller's bus. -/
def State.setController (c : ControllerBus) (s : State) : State := { s with controller := c }

/-- Append an external action with its answer to the trace (spec/20_memory.md R46). -/
def State.record (a : Action) (s : State) : State := { s with trace := s.trace ++ [a] }

/-- Answer the host (spec/20_memory.md R41, spec/30_encoding.md R83). -/
def State.answer (r : Response) (s : State) : State := { s with results := s.results ++ [r] }

/-- A falling edge of EN moves the nibble phase where the controller is known to be in 4-bit mode (spec/10_state.md R32,
spec/20_memory.md R51, R52). -/
def ControllerBus.strobe : ControllerBus → ControllerBus
  | .unknown => .unknown
  | .eightBit => .eightBit
  | .fourBit .high => .fourBit .low
  | .fourBit .low => .fourBit .high

/-- EN is 1 in the old port byte and 0 in the new one. -/
def enableFalls (m : PinMap) (old new : Byte) : Bool := roleBit m .en old && !roleBit m .en new

/-- One byte arrives at the port: it replaces `PORT` (spec/20_memory.md R49), and where EN falls that
edge is recorded and moves the nibble phase (R51, R52; notes/assumptions/25.md). -/
def State.drive (b : Byte) (s : State) : State :=
  { s with
    port := b
    strobes := if enableFalls s.cfg.pinMap s.port b then s.strobes ++ [⟨s.port, b⟩] else s.strobes
    controller := if enableFalls s.cfg.pinMap s.port b then s.controller.strobe else s.controller }

/-- Several bytes arrive at the port, one after the other, in order (R49). -/
def State.driveAll : List Byte → State → State
  | [], s => s
  | b :: bs, s => State.driveAll bs (s.drive b)

/-- The bytes a transaction writes, in order. -/
def writtenBytes : List BusOp → List Byte
  | [] => []
  | .write bytes :: ops => bytes ++ writtenBytes ops
  | .read _ :: ops => writtenBytes ops

/-- `I2cWrite(bytes)` (spec/00_scope.md R14, spec/20_memory.md R42, R44): on `ok` every byte arrives at the port; on
`fail` a prefix of them does, of the length the environment chose. `true` is `ok`. -/
def i2cWrite (bytes : List Byte) (s : State) : Bool × State :=
  match s.env.answer with
  | .ok _ _ =>
    (true, ((s.setEnv s.env.next).driveAll bytes).record (.write s.cfg.i2cAddr bytes true))
  | .fail reached =>
    (false, ((s.setEnv s.env.next).driveAll (bytes.take reached)).record (.write s.cfg.i2cAddr bytes false))

/-- `I2cTransaction(ops)` for the block's one kind of transaction, with two 1-byte reads (R14, R43, R44): on `ok` the two
samples, any bytes; on `fail` no value, and a prefix of the written bytes has arrived. -/
def i2cTransaction (ops : List BusOp) (s : State) : Option (Byte × Byte) × State :=
  match s.env.answer with
  | .ok s0 s1 =>
    (some (s0, s1),
      ((s.setEnv s.env.next).driveAll (writtenBytes ops)).record
        (.transaction s.cfg.i2cAddr ops (some [[s0], [s1]])))
  | .fail reached =>
    (none,
      ((s.setEnv s.env.next).driveAll ((writtenBytes ops).take reached)).record
        (.transaction s.cfg.i2cAddr ops none))

/-- `DelayUs(n)`: an event in the trace and nothing else; it cannot fail (R14, R45). -/
def delayUs (us : Microseconds) (s : State) : State := s.record (.delay us)

/-- `return Ok` or `return Ok(v)` (spec/00_scope.md R13). -/
def State.answerOk (value : List Byte) (s : State) : State := s.answer ⟨.ok, value⟩

/-- `raise TransportError` (spec/60_exceptions.md R186): the host is answered; nothing is saved, rolled back or retried.
`value` holds the bytes received before the failure, for RECEIVE_BYTES alone (spec/30_encoding.md R83, D18). -/
def State.raiseTransportError (value : List Byte) (s : State) : State := s.answer ⟨.transportError, value⟩

/-- Go on after an action that answered `ok`, and stop after one that answered `fail` (R186). -/
def orRaise (r : Bool × State) (f : State → Bool × State) : Bool × State :=
  match r with
  | (true, s) => f s
  | (false, s) => (false, s)

/-- The answer of an operation without a value: `Ok`, or `TransportError`. -/
def finish (r : Bool × State) : State :=
  match r with
  | (true, s) => s.answerOk []
  | (false, s) => s.raiseTransportError []

/-- A write of strobe pairs. Where the source says what the controller then is, it is that; after a failure nothing is
known of the controller (spec/70_reset_and_hazards.md R222, U3). -/
def strobedWrite (reach : Option ControllerBus) (bytes : List Byte) (s : State) : Bool × State :=
  match i2cWrite bytes s with
  | (true, t) =>
    match reach with
    | some c => (true, t.setController c)
    | none => (true, t)
  | (false, t) => (false, t.setController .unknown)

/-- A read transaction, decoded: the byte of the two samples (spec/41_protocol_driver.md R126), or no value and nothing
known of the controller. -/
def readTransaction (ops : List BusOp) (s : State) : Option Byte × State :=
  match i2cTransaction ops s with
  | (some (s0, s1), t) => (some (decodeData s.cfg.pinMap s0 s1), t)
  | (none, t) => (none, t.setController .unknown)

/-- The five operations of RECEIVE_BYTE over the frame `p` of the read priming data (spec/30_encoding.md R77):
`Write(p[2..3]), Read(1), Write(p[1..3]), Read(1), Write(p[1..2])`. -/
def readOps (p : Params) (bl rs : Bool) : List BusOp :=
  let frame := encodeFrame p.pinMap rs true bl p.readPrimeData
  [.write (slice frame 2 3), .read 1, .write (slice frame 1 3), .read 1, .write (slice frame 1 2)]

end Sys2Proof.Machine
end

