-- ==== Sys2Proof/Machine/Driver.lean ====
section
/-! DEFINITION. The Protocol Driver family (spec/41_protocol_driver.md). Every frame carries `BL` as it stands when the
frame is built, RNW is fixed by the operation, and the first failing primitive ends the operation (R120). -/

namespace Sys2Proof.Machine

/-- The handshake of INITIALIZE (R121 steps 1 to 6): three half frames with 4100 and 100 microseconds between them, then
at once the 4-bit function set. What the controller then is: notes/assumptions/5.md. -/
def initHandshake (lineMode fontMode : Bool) (s : State) : Bool × State :=
  let half := initHalfFrame s.cfg s.bl
  orRaise (strobedWrite (some .unknown) half s) fun s1 =>
  orRaise (strobedWrite (some .unknown) half (delayUs 4100#32 s1)) fun s2 =>
  orRaise (strobedWrite (some .eightBit) half (delayUs 100#32 s2)) fun s3 =>
  strobedWrite (some (.fourBit .high)) (initFinalFrame s.cfg s.bl lineMode fontMode) s3

/-- INITIALIZE (R121, R122): `INITIALIZED` is cleared at the start and set when the handshake has succeeded. -/
def execInitialise (lineMode fontMode : Bool) (s : State) : Host.Outcome State Fault Refusal :=
  .next (finish (orRaise (initHandshake lineMode fontMode (s.setInitialized false)) fun t =>
    (true, t.setInitialized true)))

/-- One frame of SEND_BYTE on the bus: one write of 4 bytes (R124). -/
def sendFrame (rs : Bool) (data : Byte) (s : State) : Bool × State :=
  strobedWrite none (sendFrameBytes s.cfg s.bl rs data) s

/-- SEND_BYTE (R124). -/
def execSendByte (rs : Bool) (data : Byte) (s : State) : Host.Outcome State Fault Refusal :=
  .next (finish (sendFrame rs data s))

/-- The loop of SEND_BYTES: one write per byte, up to the first failure (R125, D27). -/
def sendFrames (rs : Bool) : List Byte → State → Bool × State
  | [], s => (true, s)
  | b :: bs, s => orRaise (sendFrame rs b s) (sendFrames rs bs)

/-- SEND_BYTES (R125): the loop runs over `bytes[0..n-1]`. -/
def execSendBytes (rs : Bool) (n : Nat) (bytes : List Byte) (s : State) : Host.Outcome State Fault Refusal :=
  .next (finish (sendFrames rs (bytes.take n) s))

/-- One read transaction of RECEIVE_BYTE (R126). -/
def receiveOne (rs : Bool) (s : State) : Option Byte × State :=
  readTransaction (readOps s.cfg s.bl rs) s

/-- RECEIVE_BYTE (R126): on a failure no value is returned (D11). -/
def execReceiveByte (rs : Bool) (s : State) : Host.Outcome State Fault Refusal :=
  .next (match receiveOne rs s with
    | (some v, t) => t.answerOk [v]
    | (none, t) => t.raiseTransportError [])

/-- The loop of RECEIVE_BYTES: whether every transaction succeeded, the bytes received, and the state (R129, D18). -/
def receiveMany (rs : Bool) : Nat → State → Bool × List Byte × State
  | 0, s => (true, [], s)
  | n + 1, s =>
    match receiveOne rs s with
    | (none, t) => (false, [], t)
    | (some v, t) =>
      match receiveMany rs n t with
      | (ok, vs, u) => (ok, v :: vs, u)

/-- RECEIVE_BYTES (R129): on a failure the bytes received before it stay with the host (D18). -/
def execReceiveBytes (rs : Bool) (n : Nat) (s : State) : Host.Outcome State Fault Refusal :=
  .next (match receiveMany rs n s with
    | (true, vs, t) => t.answerOk vs
    | (false, vs, t) => t.raiseTransportError vs)

/-- SET_BACKLIGHT (R132): `BL` first, then one write of the idle byte; a failed write leaves the new `BL` (D10). -/
def execSetBacklight (on : Bool) (s : State) : Host.Outcome State Fault Refusal :=
  .next (finish (i2cWrite [idlePortByte s.cfg.pinMap on] (s.setBl on)))

/-- DELAY (R133): a pass-through, with nothing added to `us` or taken from it. -/
def execDelay (us : Microseconds) (s : State) : Host.Outcome State Fault Refusal :=
  .next ((delayUs us s).answerOk [])

end Sys2Proof.Machine
end

