-- ==== Sys2Proof/Machine/Encoder.lean ====
section
/-! DEFINITION. The Encoder family: ENCODE and DECODE (spec/40_encoder.md). Both read their operands and the PinMap, issue
no external action, write no state and cannot fail (R106); only the host gets an answer. -/

namespace Sys2Proof.Machine

/-- ENCODE (R100). `BL` of the session is not read: the backlight flag is an operand. -/
def execEncode (rs rnw bl : Bool) (data : Byte) (s : State) : Host.Outcome State Fault Refusal :=
  .next (s.answerOk (encodeFrame s.cfg.pinMap rs rnw bl data))

/-- DECODE (R101). -/
def execDecode (sample0 sample1 : Byte) (s : State) : Host.Outcome State Fault Refusal :=
  .next (s.answerOk [decodeData s.cfg.pinMap sample0 sample1])

end Sys2Proof.Machine
end

