-- ==== Sys2Proof/Machine/PortBytes.lean ====
section
/-! DEFINITION. The PORT_BYTE rows of the opcode table: the three kinds of port byte (spec/30_encoding.md R73), each with
what its arrival does at the expander's port (spec/20_memory.md R49) and at the controller's EN line (R51, R52). They are
wire formats, not operations of the block: the block's own state, its trace and its answers are untouched, as for a host
that sends bytes built by ENCODE itself (spec/70_reset_and_hazards.md R220, R227). DEDUCED: notes/assumptions/8.md. -/

namespace Sys2Proof.Machine

/-- STROBE_HIGH_BYTE: EN = 1, the other roles as given (R73). -/
def execStrobeHighByte (rs rnw bl : Bool) (n : Nibble) (s : State) : Host.Outcome State Fault Refusal :=
  .next (s.drive (port s.cfg.pinMap rs rnw true bl n))

/-- STROBE_LOW_BYTE: EN = 0, the other roles as given (R73). -/
def execStrobeLowByte (rs rnw bl : Bool) (n : Nibble) (s : State) : Host.Outcome State Fault Refusal :=
  .next (s.drive (port s.cfg.pinMap rs rnw false bl n))

/-- IDLE_BYTE: BL as given, every other role 0 (R73). -/
def execIdleByte (bl : Bool) (s : State) : Host.Outcome State Fault Refusal :=
  .next (s.drive (idlePortByte s.cfg.pinMap bl))

end Sys2Proof.Machine
end

