-- ==== Sys2Proof/Machine/Dispatch.lean ====
section
/-! DEFINITION. One arm per instruction, each a call of its meaning. -/

namespace Sys2Proof.Machine

def exec (i : Instr) (s : State) : Host.Outcome State Fault Refusal :=
  match i with
  | .encode rs rnw bl data => Sys2Proof.Machine.execEncode rs rnw bl data s
  | .decode sample0 sample1 => Sys2Proof.Machine.execDecode sample0 sample1 s
  | .initialise lineMode fontMode => Sys2Proof.Machine.execInitialise lineMode fontMode s
  | .sendByte rs data => Sys2Proof.Machine.execSendByte rs data s
  | .sendBytes rs n bytes => Sys2Proof.Machine.execSendBytes rs n bytes s
  | .receiveByte rs => Sys2Proof.Machine.execReceiveByte rs s
  | .receiveBytes rs n => Sys2Proof.Machine.execReceiveBytes rs n s
  | .setBacklight on => Sys2Proof.Machine.execSetBacklight on s
  | .delay us => Sys2Proof.Machine.execDelay us s
  | .strobeHighByte rs rnw bl nibble => Sys2Proof.Machine.execStrobeHighByte rs rnw bl nibble s
  | .strobeLowByte rs rnw bl nibble => Sys2Proof.Machine.execStrobeLowByte rs rnw bl nibble s
  | .idleByte bl => Sys2Proof.Machine.execIdleByte bl s

end Sys2Proof.Machine
end

