-- ==== Sys2Proof/Machine/Sequencer.lean ====
section
/-! DEFINITION. The sequencer, one external action at a time (spec/10_state.md R22): every operation has a fixed list of
external actions, a position in it always advances by one, and a failure ends the operation (spec/60_exceptions.md R186).
This is the fine-grained view of what `exec` says of a whole operation; `step` uses it to finish an operation that is
running. -/

namespace Sys2Proof.Machine

/-- The external actions an operation issues, in order (spec/41_protocol_driver.md R121 to R133); the Encoder's issue
none, and a port byte is no operation. -/
def plannedActions (op : Instr) (s : State) : List Planned :=
  match op with
  | .encode _ _ _ _ => []
  | .decode _ _ => []
  | .initialise lineMode fontMode =>
    [.strobed (initHalfFrame s.cfg s.bl) (some .unknown), .delay 4100#32,
      .strobed (initHalfFrame s.cfg s.bl) (some .unknown), .delay 100#32,
      .strobed (initHalfFrame s.cfg s.bl) (some .eightBit),
      .strobed (initFinalFrame s.cfg s.bl lineMode fontMode) (some (.fourBit .high))]
  | .sendByte rs data => [.strobed (sendFrameBytes s.cfg s.bl rs data) none]
  | .sendBytes rs n bytes => (bytes.take n).map fun b => .strobed (sendFrameBytes s.cfg s.bl rs b) none
  | .receiveByte rs => [.read (readOps s.cfg s.bl rs)]
  | .receiveBytes rs n => List.replicate n (.read (readOps s.cfg s.bl rs))
  | .setBacklight on => [.idle (idlePortByte s.cfg.pinMap on)]
  | .delay us => [.delay us]
  | .strobeHighByte _ _ _ _ => []
  | .strobeLowByte _ _ _ _ => []
  | .idleByte _ => []

/-- What an operation writes before its first external action: INITIALIZE clears `INITIALIZED` (R121), SET_BACKLIGHT
writes `BL` (R132). -/
def prologue (op : Instr) (s : State) : State :=
  match op with
  | .encode _ _ _ _ => s
  | .decode _ _ => s
  | .initialise _ _ => s.setInitialized false
  | .sendByte _ _ => s
  | .sendBytes _ _ _ => s
  | .receiveByte _ => s
  | .receiveBytes _ _ => s
  | .setBacklight on => s.setBl on
  | .delay _ => s
  | .strobeHighByte _ _ _ _ => s
  | .strobeLowByte _ _ _ _ => s
  | .idleByte _ => s

/-- The return of an operation whose external actions have all succeeded: its value, and for INITIALIZE the ghost bit. -/
def epilogue (op : Instr) (received : List Byte) (s : State) : State :=
  match op with
  | .encode rs rnw bl data => s.answerOk (encodeFrame s.cfg.pinMap rs rnw bl data)
  | .decode sample0 sample1 => s.answerOk [decodeData s.cfg.pinMap sample0 sample1]
  | .initialise _ _ => (s.setInitialized true).answerOk []
  | .sendByte _ _ => s.answerOk []
  | .sendBytes _ _ _ => s.answerOk []
  | .receiveByte _ => s.answerOk received
  | .receiveBytes _ _ => s.answerOk received
  | .setBacklight _ => s.answerOk []
  | .delay _ => s.answerOk []
  | .strobeHighByte _ _ _ _ => s
  | .strobeLowByte _ _ _ _ => s
  | .idleByte _ => s

/-- The host presents an operation: the sequencer leaves idle for the first position of its list (R22, R41). -/
def startOperation (op : Instr) (s : State) : State :=
  (prologue op s).setSeq (.running op (plannedActions op s) [])

/-- Perform one planned action: the bytes it received, or `none` for a failure. -/
def perform (a : Planned) (s : State) : Option (List Byte) × State :=
  match a with
  | .strobed bytes reach =>
    match strobedWrite reach bytes s with
    | (true, t) => (some [], t)
    | (false, t) => (none, t)
  | .idle byte =>
    match i2cWrite [byte] s with
    | (true, t) => (some [], t)
    | (false, t) => (none, t)
  | .read ops =>
    match readTransaction ops s with
    | (some v, t) => (some [v], t)
    | (none, t) => (none, t)
  | .delay us => (some [], delayUs us s)

/-- One advance of the sequencer: the next external action, or the return to the host (R22, R186). -/
def tick (s : State) : State :=
  match s.seq with
  | .idle => s
  | .running op [] received => (epilogue op received s).setSeq .idle
  | .running op (a :: rest) received =>
    match perform a s with
    | (some bytes, t) => t.setSeq (.running op rest (received ++ bytes))
    | (none, t) => (t.raiseTransportError received).setSeq .idle

/-- `k` advances. -/
def ticks : Nat → State → State
  | 0, s => s
  | k + 1, s => ticks k (tick s)

/-- How many advances take the sequencer to idle at most: one per action still to issue, and one for the return. -/
def Sequencer.remaining : Sequencer → Nat
  | .idle => 0
  | .running _ rest _ => rest.length + 1

end Sys2Proof.Machine
end

