-- ==== Sys2Proof/Machine/Step.lean ====
section
/-! DEFINITION. One step: a running operation runs to its end, for the host has no move while one is in progress
(spec/20_memory.md R41); between operations the block performs the operation the host presents next, whole (R12), and with
none presented it does nothing (spec/60_exceptions.md R190). -/

namespace Sys2Proof.Machine

/-- A request the decoder rejects, as a refusal of the machine. -/
def refusalOf : DecodeError → Refusal
  | .reservedOpCode op => .reservedOpCode op
  | .operandLengthMismatch n present => .operandLengthMismatch n present

def step (s : State) : Host.Outcome State Fault Refusal :=
  match s.seq with
  | .running _ rest _ => .next (ticks (rest.length + 1) s)
  | .idle =>
    match s.requests with
    | [] => .next s
    | r :: rest =>
      match decode s.cfg.pinMap r with
      | .ok i => exec i (s.setRequests rest)
      | .error e => .refused (refusalOf e)

/-- The word of an opcode-table row presented as the next request, before any other. A word that is of no row's width
presents nothing. HOW A PROGRAM COMES TO RUN: notes/assumptions/1.md. -/
def State.withFetchWord (s : State) (nbits w : Nat) : State :=
  match tableRequest nbits w with
  | some r => s.setRequests (r :: s.requests)
  | none => s

end Sys2Proof.Machine
end

