-- ==== Sys2Proof/Machine/Controller.lean ====
section
/-! DEFINITION. What the port's strobes mean to the controller: the kind of transfer RS and RNW choose
(spec/20_memory.md R50), and the byte a pair of write strobes carries (R51, R56). The block reads none of this. Any claim in
these terms has `INITIALIZED = true` as a premise (spec/70_reset_and_hazards.md R214; U2). -/

namespace Sys2Proof.Machine

/-- What a byte transfer means to the controller (R50). -/
inductive Transfer where
  | commandWrite
  | characterWrite
  | statusRead
  | dataRead
deriving DecidableEq, Repr

/-- The table of R50. -/
def transferOf (rs rnw : Bool) : Transfer :=
  match rs, rnw with
  | false, false => .commandWrite
  | true, false => .characterWrite
  | false, true => .statusRead
  | true, true => .dataRead

/-- The kind of transfer a strobe belongs to. -/
def Strobe.transfer (m : PinMap) (k : Strobe) : Transfer := transferOf (roleBit m .rs k.low) (roleBit m .rnw k.low)

/-- The byte two write strobes carry, high nibble first (R56): each nibble is latched where EN falls (R51). -/
def latchedByte (m : PinMap) (first second : Strobe) : Byte := joinNibbles (nib m first.low) (nib m second.low)

/-- Whether the controller is known to be in 4-bit mode (spec/10_state.md R32). -/
def ControllerBus.isFourBit : ControllerBus → Bool
  | .unknown => false
  | .eightBit => false
  | .fourBit _ => true

end Sys2Proof.Machine
end

