-- ==== Sys2Proof/Machine/Instance.lean ====
section
/-! DEFINITION. The machine of one configuration: the configuration is an argument of the machine and not part of its
state (spec/00_scope.md R8, spec/10_state.md R34), and several instances share no state (spec/60_exceptions.md R201). -/

namespace Sys2Proof.Machine

/-- A session of the instance with parameters `p`, in the form `step` reads. -/
def Session.under (p : Params) (s : Session) : State := { s with cfg := p }

/-- An outcome of the machine of `p`, in the form `step` answers. -/
def outcomeUnder (p : Params) : Host.Outcome Session Fault Refusal → Host.Outcome State Fault Refusal
  | .next s => .next (s.under p)
  | .fault r => .fault r
  | .refused r => .refused r

/-- One step of the instance with parameters `p`. -/
def sessionStep (p : Params) (s : Session) : Host.Outcome Session Fault Refusal :=
  match step (s.under p) with
  | .next t => .next t.toSession
  | .fault r => .fault r
  | .refused r => .refused r

/-- The machine of a valid configuration (R8): its states are sessions, and its reset is construction with `p` (R210). An
invalid configuration has no machine, so no reset and no run (spec/60_exceptions.md R183, spec/10_state.md R25,
spec/30_encoding.md R89). -/
def machine (p : Params) (valid : p.wf = true) : Host.Core :=
  { State := Session
    Fault := Fault
    Refusal := Refusal
    step := sessionStep p
    reset := (State.init p valid).toSession }

end Sys2Proof.Machine
end

