-- ==== Sys2Proof/Machine/Layer.lean ====
section
/-! DEFINITION. The display convenience layer, OUTSIDE the block (spec/00_scope.md R5, spec/42_display_layer.md R160): its
calls are pseudo-operations over SEND_BYTE, SEND_BYTES and DELAY (spec/30_encoding.md R92 (c)), modelled as far as the
source gives them. Each answers the layer's status and the state after the block's operations. -/

namespace Sys2Proof.Machine

/-- The status a finished write reports to the layer: a TransportError passes through unchanged (R171). -/
def layerStatus (ok : Bool) : Status := if ok then .ok else .transportError

/-- SEND_BYTE as the layer calls it. -/
def layerSendByte (rs : Bool) (data : Byte) (s : State) : Status × State :=
  let r := sendFrame rs data s
  (layerStatus r.1, finish r)

/-- SEND_BYTES as the layer calls it. -/
def layerSendBytes (rs : Bool) (bytes : List Byte) (s : State) : Status × State :=
  let r := sendFrames rs bytes s
  (layerStatus r.1, finish r)

/-- DELAY as the layer calls it. -/
def layerDelay (us : Microseconds) (s : State) : State := (delayUs us s).answerOk []

/-- The DDRAM address of a cell (R162): in two-line mode `(row % 2) * 0x40 + col`; one-line mode is OPEN (D25), so it is
free. Rows 2 and 3 of a four-row display are OPEN too (D25, U15, N-42-1): that the two-line formula serves them is
DEDUCED, the model's choice: notes/assumptions/26.md. -/
def ddramAddress (g : LayerParams) (row col : Nat) : Nat :=
  if g.lineMode then (row % 2) * 0x40 + col else Config.oneLineAddress row col

/-- The command byte for a DDRAM address: `CMD_SET_DDRAM | addr` for an address of 7 bits (R164). -/
def setDdramCommand (g : LayerParams) (addr : Nat) : Byte :=
  if addr < 128 then g.cmdSetDdram ||| BitVec.ofNat 8 addr else Config.freeDdramCommand addr

/-- POSITION (R161, R164): the range check first, with no external action where it fails. Whether a delay follows the command
is OPEN (D25); that none does is the model's choice: notes/assumptions/19.md. -/
def layerPosition (g : LayerParams) (row col : Nat) (s : State) : Status × State :=
  if g.rows ≤ row ∨ g.cols ≤ col then (.rangeError, s)
  else layerSendByte false (setDdramCommand g (ddramAddress g row col)) s

/-- A command followed by the 1520 microseconds clear and home need; no delay where the send failed (R165). -/
def layerSlowCommand (cmd : Byte) (s : State) : Status × State :=
  match layerSendByte false cmd s with
  | (.ok, t) => (.ok, layerDelay 1520#32 t)
  | (e, t) => (e, t)

/-- CLEAR (R165, R166). -/
def layerClear (g : LayerParams) (s : State) : Status × State := layerSlowCommand g.cmdClear s

/-- HOME (R165, R166). -/
def layerHome (g : LayerParams) (s : State) : Status × State := layerSlowCommand g.cmdHome s

/-- The custom glyph code mask (R167): `0b0000_0111` for the 5x8 font, `0b0000_0110` for the 5x10 font. -/
def glyphCode (g : LayerParams) (code : Byte) : Byte :=
  code &&& (if g.fontMode then 0b00000110#8 else 0b00000111#8)

/-- How many rows a glyph has: 8 or 10 (R168). -/
def glyphRows (g : LayerParams) : Nat := if g.fontMode then 10 else 8

/-- A custom glyph's bitmap (R168): of fixed size, 8 or 10 rows by the font, with 5 significant bits each. -/
abbrev GlyphBitmap (g : LayerParams) : Type := Vector (BitVec 5) (glyphRows g)

/-- The byte of a glyph row (R168): its significant bits are the low five, PRESUMED by the spec (G11), and the other three
are free: notes/assumptions/27.md. -/
def glyphRowByte (rest : BitVec 3) (row : BitVec 5) : Byte := rest ++ row

/-- The bytes of glyph rows, in order, the free bits numbered from `first`. -/
def glyphRowBytes : Nat → List (BitVec 5) → List Byte
  | _, [] => []
  | first, row :: rows => glyphRowByte (Config.freeGlyphBits first) row :: glyphRowBytes (first + 1) rows

/-- The rows of a custom glyph, as character data (R168): all the rows of the bitmap, one byte each. The command that
selects the CGRAM address before them is not in the source (N-42-2), so this is the part of the definition of a glyph that
the spec fixes (notes/assumptions/19.md). -/
def layerGlyphData (g : LayerParams) (bitmap : GlyphBitmap g) (s : State) : Status × State :=
  layerSendBytes true (glyphRowBytes s.trace.length bitmap.toList) s

/-- Text output of character codes (R170). -/
def layerText (codes : List Byte) (s : State) : Status × State := layerSendBytes true codes s

/-- Formatted printing (R169): FormatError where rendering fails. Whether it fails and how much was sent are free. -/
def layerPrint (codes : List Byte) (s : State) : Status × State :=
  if Config.formatFails codes then
    match codes.take (Config.formatSent codes) with
    | [] => (.formatError, s)
    | sent =>
      match layerText sent s with
      | (.ok, t) => (.formatError, t)
      | (e, t) => (e, t)
  else layerText codes s

end Sys2Proof.Machine
end

