-- ==== Sys2Proof/Safety.lean ====
section
/-! DEFINITION. What counts as safe, in the terms the statements use: which external actions are legal, the invariant
every step keeps, the environment's answers a statement assumes, and a frame's falling edges of EN. -/

namespace Sys2Proof.Machine

/-- The next `k` answers of the environment are all `ok`. -/
def Environment.allOk (k : Nat) (e : Environment) : Bool := (e.answers k).all EnvAnswer.isOk

/-- The next `k` answers are `ok` and the one after them is a failure after `reached` bytes. -/
abbrev Environment.FailsAt (k reached : Nat) (e : Environment) : Prop :=
  e.allOk k = true ∧ (e.after k).answer = .fail reached

/-- An external action the environment answered with `fail` (spec/20_memory.md R44). -/
def Action.failed : Action → Bool
  | .write _ _ ok => !ok
  | .transaction _ _ samples => samples.isNone
  | .delay _ => false

/-- A strobe-high byte followed by the identical byte with EN cleared (spec/30_encoding.md R75). -/
def isStrobePair (m : PinMap) (a b : Byte) : Bool :=
  roleBit m .en a && !roleBit m .en b && (a ^^^ b == bitAt m.en true)

/-- The two halves of a frame agree in RS, RNW and BL (R74). -/
def sameControlRoles (m : PinMap) (a b : Byte) : Bool :=
  roleBit m .rs a == roleBit m .rs b && roleBit m .rnw a == roleBit m .rnw b && roleBit m .bl a == roleBit m .bl b

/-- The byte lists the block writes outside a read transaction (R75, R76, spec/20_memory.md R59): one idle byte, a half
frame, or a full frame, with RNW = 0. -/
def legalWrite (m : PinMap) : List Byte → Bool
  | [b] => b == idlePortByte m (roleBit m .bl b)
  | [a, b] => isStrobePair m a b && !roleBit m .rnw a
  | [a, b, c, d] =>
    isStrobePair m a b && isStrobePair m c d && sameControlRoles m a c && !roleBit m .rnw a
  | _ => false

/-- The read transactions the block issues: the five operations of R77, for some RS and BL. -/
def legalTransaction (p : Params) (ops : List BusOp) : Bool :=
  ops == readOps p false false || ops == readOps p false true || ops == readOps p true false
    || ops == readOps p true true

/-- One byte list per read of the transaction, one byte in each. -/
def legalSamples : Option (List (List Byte)) → Bool
  | none => true
  | some [[_], [_]] => true
  | some _ => false

/-- An external action the block may issue: to `I2C_ADDR` alone (R48) and of a shape of R59. -/
def Action.legal (p : Params) : Action → Bool
  | .write addr bytes _ => addr == p.i2cAddr && legalWrite p.pinMap bytes
  | .transaction addr ops samples => addr == p.i2cAddr && legalTransaction p ops && legalSamples samples
  | .delay _ => true

/-- The boot requirement as a premise (spec/70_reset_and_hazards.md R214); the block does not enforce it. -/
abbrev State.Booted (s : State) : Prop := s.initialized = true

/-- The invariant of the machine between operations: a valid configuration with the spec's `INIT_FINAL_LEN`, an idle
sequencer, a trace of legal actions, and a controller known to be in 4-bit mode only after an INITIALIZE that has
succeeded. -/
abbrev State.Inv (s : State) : Prop :=
  s.cfg.wf = true ∧ s.cfg.initFinalLen = 4 ∧ s.seq = .idle ∧ s.trace.all (Action.legal s.cfg) = true ∧
    (s.controller.isFourBit = true → s.Booted)

/-- A frame's two strobes (spec/20_memory.md R51): high nibble, then low nibble. -/
def frameStrobes (m : PinMap) (rs rnw bl : Bool) (data : Byte) : List Strobe :=
  [⟨port m rs rnw true bl (hiNibble data), port m rs rnw false bl (hiNibble data)⟩,
    ⟨port m rs rnw true bl (loNibble data), port m rs rnw false bl (loNibble data)⟩]

/-- The two strobes of a read transaction: each from `p[2]` down to `p[1]` (spec/30_encoding.md R77). -/
def readStrobes (p : Params) (bl rs : Bool) : List Strobe :=
  [⟨port p.pinMap rs true true bl (loNibble p.readPrimeData), port p.pinMap rs true false bl (hiNibble p.readPrimeData)⟩,
    ⟨port p.pinMap rs true true bl (loNibble p.readPrimeData), port p.pinMap rs true false bl (hiNibble p.readPrimeData)⟩]

/-- The data lines were held stable over a falling edge: only EN differs (R51). -/
def Strobe.held (m : PinMap) (k : Strobe) : Bool := isStrobePair m k.high k.low

/-- The six external actions of an INITIALIZE that succeeds (spec/41_protocol_driver.md R121). -/
def initActions (p : Params) (bl lineMode fontMode : Bool) : List Action :=
  [.write p.i2cAddr (initHalfFrame p bl) true, .delay 4100#32,
    .write p.i2cAddr (initHalfFrame p bl) true, .delay 100#32,
    .write p.i2cAddr (initHalfFrame p bl) true,
    .write p.i2cAddr (initFinalFrame p bl lineMode fontMode) true]

/-- Which of the six actions is write number `k` of INITIALIZE, for `k` in 0..3. -/
def initWriteIndex (k : Nat) : Nat := if k = 3 then 5 else 2 * k

/-- The bytes of write number `k` of INITIALIZE. -/
def initWriteBytes (p : Params) (bl lineMode fontMode : Bool) (k : Nat) : List Byte :=
  if k = 3 then initFinalFrame p bl lineMode fontMode else initHalfFrame p bl

/-- The bytes an INITIALIZE whose write number `k` fails after `reached` bytes has put on the port. -/
def initReachedBytes (p : Params) (bl lineMode fontMode : Bool) (k reached : Nat) : List Byte :=
  (List.replicate k (initHalfFrame p bl)).flatten ++ (initWriteBytes p bl lineMode fontMode k).take reached

/-- The decoded bytes of the next `n` read transactions, if the environment answers all of them with `ok`. -/
def sampledBytes (m : PinMap) : Nat → Environment → List Byte
  | 0, _ => []
  | n + 1, e =>
    (match e.answer with
      | .ok s0 s1 => [decodeData m s0 s1]
      | .fail _ => []) ++ sampledBytes m n e.next

/-- The trace entries of the next `n` read transactions, if the environment answers all of them with `ok`. -/
def readActions (p : Params) (bl rs : Bool) : Nat → Environment → List Action
  | 0, _ => []
  | n + 1, e =>
    (match e.answer with
      | .ok s0 s1 => [.transaction p.i2cAddr (readOps p bl rs) (some [[s0], [s1]])]
      | .fail _ => []) ++ readActions p bl rs n e.next

/-- The most external actions an operation issues (spec/41_protocol_driver.md R130). -/
def actionBound : Instr → Nat
  | .encode _ _ _ _ => 0
  | .decode _ _ => 0
  | .initialise _ _ => 6
  | .sendByte _ _ => 1
  | .sendBytes _ n _ => n
  | .receiveByte _ => 1
  | .receiveBytes _ n => n
  | .setBacklight _ => 1
  | .delay _ => 1
  | .strobeHighByte _ _ _ _ => 0
  | .strobeLowByte _ _ _ _ => 0
  | .idleByte _ => 0

/-- The bytes an external action writes. -/
def Action.bytes : Action → List Byte
  | .write _ bytes _ => bytes
  | .transaction _ ops _ => writtenBytes ops
  | .delay _ => []

/-- Two states an operation cannot tell apart: the same configuration, backlight flag and environment. `INITIALIZED`,
`PORT` and the controller may differ (spec/10_state.md R28, R32). -/
abbrev State.SameForTheBlock (s t : State) : Prop := s.cfg = t.cfg ∧ s.bl = t.bl ∧ s.env = t.env

end Sys2Proof.Machine
end

