-- ==== Sys2Proof/Certificates/Slice0/Obligations.lean ====
section
/-! DEFINITION. The statements for the provers, each a numbered rule of the spec or what follows from several. -/

open Sys2Proof Sys2Proof.Machine

/-- ENCODE answers the four bytes of R100's pseudocode and changes nothing but the answer (R100, R106). -/
def Obligations.EncodeAnswersBusFrame : Prop :=
  ∀ (rs rnw bl : Bool) (data : Byte) (s : State),
    exec (.encode rs rnw bl data) s =
      .next { s with
        results := s.results ++
          [⟨.ok, [port s.cfg.pinMap rs rnw true bl (data.extractLsb' 4 4),
            port s.cfg.pinMap rs rnw false bl (data.extractLsb' 4 4),
            port s.cfg.pinMap rs rnw true bl (data.extractLsb' 0 4),
            port s.cfg.pinMap rs rnw false bl (data.extractLsb' 0 4)]⟩] }

/-- R74: in a full BusFrame EN alternates from 1, bytes 0 and 1 carry `data[7:4]`, bytes 2 and 3 `data[3:0]`, and RS,
RNW and BL are as given in all four. -/
def Obligations.BusFrameFormat : Prop :=
  ∀ (m : PinMap) (rs rnw bl : Bool) (data : Byte), m.wf = true →
    ∃ p0 p1 p2 p3 : Byte, encodeFrame m rs rnw bl data = [p0, p1, p2, p3] ∧
      (∀ p ∈ [p0, p1, p2, p3], roleBit m .rs p = rs ∧ roleBit m .rnw p = rnw ∧ roleBit m .bl p = bl) ∧
      roleBit m .en p0 = true ∧ roleBit m .en p1 = false ∧ roleBit m .en p2 = true ∧ roleBit m .en p3 = false ∧
      nib m p0 = data.extractLsb' 4 4 ∧ nib m p1 = data.extractLsb' 4 4 ∧
      nib m p2 = data.extractLsb' 0 4 ∧ nib m p3 = data.extractLsb' 0 4

/-- DECODE answers one byte, `{nib(sample0), nib(sample1)}` bit by bit, and changes nothing but the answer (R101). -/
def Obligations.DecodeAnswersJoinedNibbles : Prop :=
  ∀ (s0 s1 : Byte) (s : State), ∃ v : Byte,
    exec (.decode s0 s1) s = .next { s with results := s.results ++ [⟨.ok, [v]⟩] } ∧
    v.getLsbD 7 = s0.getLsbD s.cfg.pinMap.d7 ∧ v.getLsbD 6 = s0.getLsbD s.cfg.pinMap.d6 ∧
    v.getLsbD 5 = s0.getLsbD s.cfg.pinMap.d5 ∧ v.getLsbD 4 = s0.getLsbD s.cfg.pinMap.d4 ∧
    v.getLsbD 3 = s1.getLsbD s.cfg.pinMap.d7 ∧ v.getLsbD 2 = s1.getLsbD s.cfg.pinMap.d6 ∧
    v.getLsbD 1 = s1.getLsbD s.cfg.pinMap.d5 ∧ v.getLsbD 0 = s1.getLsbD s.cfg.pinMap.d4

/-- R78: the marshal function puts every role at its position, no other byte has the same roles, the byte is the sum
of the shifted bits, and under the default map it is `{n, bl, en, rnw, rs}`. -/
def Obligations.MarshalPlacesEveryRole : Prop :=
  ∀ (m : PinMap) (rs rnw en bl : Bool) (n : Nibble), m.wf = true →
    (∀ b : Byte, b = port m rs rnw en bl n ↔
      b.getLsbD m.rs = rs ∧ b.getLsbD m.rnw = rnw ∧ b.getLsbD m.en = en ∧ b.getLsbD m.bl = bl ∧
      b.getLsbD m.d4 = n.getLsbD 0 ∧ b.getLsbD m.d5 = n.getLsbD 1 ∧
      b.getLsbD m.d6 = n.getLsbD 2 ∧ b.getLsbD m.d7 = n.getLsbD 3) ∧
    port m rs rnw en bl n =
      (BitVec.ofBool rs).setWidth 8 <<< m.rs.val ||| (BitVec.ofBool rnw).setWidth 8 <<< m.rnw.val |||
        (BitVec.ofBool en).setWidth 8 <<< m.en.val ||| (BitVec.ofBool bl).setWidth 8 <<< m.bl.val |||
        (n.extractLsb' 0 1).setWidth 8 <<< m.d4.val ||| (n.extractLsb' 1 1).setWidth 8 <<< m.d5.val |||
        (n.extractLsb' 2 1).setWidth 8 <<< m.d6.val ||| (n.extractLsb' 3 1).setWidth 8 <<< m.d7.val ∧
    port PinMap.conventional rs rnw en bl n =
      n ++ BitVec.ofBool bl ++ BitVec.ofBool en ++ BitVec.ofBool rnw ++ BitVec.ofBool rs ∧
    port PinMap.conventional rs rnw en bl n =
      n.setWidth 8 <<< 4 ||| (BitVec.ofBool bl).setWidth 8 <<< 3 ||| (BitVec.ofBool en).setWidth 8 <<< 2 |||
        (BitVec.ofBool rnw).setWidth 8 <<< 1 ||| (BitVec.ofBool rs).setWidth 8

/-- R79: bit `k` of `nib(s)` is the bit of `s` at `pos(D(4+k))`; samples equal there have equal nibbles; under the
default map `nib(s) = s[7:4]`. -/
def Obligations.UnmarshalReadsDataRoles : Prop :=
  ∀ (m : PinMap) (s : Byte),
    ((nib m s).getLsbD 0 = s.getLsbD m.d4 ∧ (nib m s).getLsbD 1 = s.getLsbD m.d5 ∧
      (nib m s).getLsbD 2 = s.getLsbD m.d6 ∧ (nib m s).getLsbD 3 = s.getLsbD m.d7) ∧
    (∀ s' : Byte, s.getLsbD m.d4 = s'.getLsbD m.d4 → s.getLsbD m.d5 = s'.getLsbD m.d5 →
      s.getLsbD m.d6 = s'.getLsbD m.d6 → s.getLsbD m.d7 = s'.getLsbD m.d7 → nib m s = nib m s') ∧
    nib PinMap.conventional s = s.extractLsb' 4 4

/-- R102: within each strobe pair ENCODE answers, only EN differs, set in the first byte and cleared in the second. -/
def Obligations.StrobePairLaw : Prop :=
  ∀ (rs rnw bl : Bool) (data : Byte) (s : State), s.cfg.pinMap.wf = true →
    ∃ p0 p1 p2 p3 : Byte,
      exec (.encode rs rnw bl data) s =
        .next { s with results := s.results ++ [⟨.ok, [p0, p1, p2, p3]⟩] } ∧
      p0 ^^^ p1 = 1#8 <<< s.cfg.pinMap.en.val ∧ p2 ^^^ p3 = 1#8 <<< s.cfg.pinMap.en.val ∧
      p0.getLsbD s.cfg.pinMap.en = true ∧ p2.getLsbD s.cfg.pinMap.en = true ∧
      p1.getLsbD s.cfg.pinMap.en = false ∧ p3.getLsbD s.cfg.pinMap.en = false

/-- R103: DECODE of a high-nibble byte and a low-nibble byte of an encoded frame answers the payload, for every valid
PinMap, every flag and all four pairings. -/
def Obligations.EncodeDecodeRoundTrip : Prop :=
  ∀ (rs rnw bl : Bool) (data : Byte) (s : State), s.cfg.pinMap.wf = true →
    ∃ p0 p1 p2 p3 : Byte,
      exec (.encode rs rnw bl data) s =
        .next { s with results := s.results ++ [⟨.ok, [p0, p1, p2, p3]⟩] } ∧
      ∀ a ∈ [p0, p1], ∀ b ∈ [p2, p3],
        exec (.decode a b) s = .next { s with results := s.results ++ [⟨.ok, [data]⟩] }

/-- R104: the conventional policy's formulas give, for every operand value, what the custom policy gives with the
default PinMap. -/
def Obligations.ConventionalPolicyAgrees : Prop :=
  (∀ (rs rnw bl : Bool) (data : Byte),
    conventionalFrame rs rnw bl data = encodeFrame PinMap.conventional rs rnw bl data) ∧
  (∀ s0 s1 : Byte, conventionalDecode s0 s1 = decodeData PinMap.conventional s0 s1)

/-- R106: ENCODE and DECODE always answer `Ok`, touch nothing but the answer, and answer alike for the same operands
wherever the PinMap is the same. -/
def Obligations.EncoderIsPureAndTotal : Prop :=
  (∀ (rs rnw bl : Bool) (data : Byte) (s s' : State), s.cfg.pinMap = s'.cfg.pinMap →
    ∃ v : List Byte,
      exec (.encode rs rnw bl data) s = .next { s with results := s.results ++ [⟨.ok, v⟩] } ∧
      exec (.encode rs rnw bl data) s' = .next { s' with results := s'.results ++ [⟨.ok, v⟩] }) ∧
  (∀ (s0 s1 : Byte) (s s' : State), s.cfg.pinMap = s'.cfg.pinMap →
    ∃ v : List Byte,
      exec (.decode s0 s1) s = .next { s with results := s.results ++ [⟨.ok, v⟩] } ∧
      exec (.decode s0 s1) s' = .next { s' with results := s'.results ++ [⟨.ok, v⟩] })

/-- INITIALIZE, every write answered `ok` (R121): three half-frame writes with 4100 and 100 microseconds between them,
at once the 4-bit function set as one full frame, then `INITIALIZED = true` and `Ok`. Two clauses are the model's: the
controller's bus after it is its reading of "the bus is in 4-bit mode" (notes/assumptions/5.md), and the strobes are
its own record of the falling edges of EN (notes/assumptions/25.md). -/
def Obligations.InitialiseCompletes : Prop :=
  ∀ (lineMode fontMode : Bool) (s : State),
    s.cfg.pinMap.wf = true → s.cfg.initFinalLen = 4 → s.env.allOk 4 = true →
    exec (.initialise lineMode fontMode) s =
      .next { s with
        initialized := true
        results := s.results ++ [⟨.ok, []⟩]
        trace := s.trace ++
          [.write s.cfg.i2cAddr ((encodeFrame s.cfg.pinMap false false s.bl s.cfg.cmdFs8).take 2) true,
            .delay 4100#32,
            .write s.cfg.i2cAddr ((encodeFrame s.cfg.pinMap false false s.bl s.cfg.cmdFs8).take 2) true,
            .delay 100#32,
            .write s.cfg.i2cAddr ((encodeFrame s.cfg.pinMap false false s.bl s.cfg.cmdFs8).take 2) true,
            .write s.cfg.i2cAddr
              (encodeFrame s.cfg.pinMap false false s.bl (functionSet4 s.cfg.cmdFs4 lineMode fontMode)) true]
        env := s.env.after 4
        port := port s.cfg.pinMap false false false s.bl
          (loNibble (functionSet4 s.cfg.cmdFs4 lineMode fontMode))
        strobes := s.strobes ++
          (List.replicate 3 ((frameStrobes s.cfg.pinMap false false s.bl s.cfg.cmdFs8).take 1)).flatten ++
          frameStrobes s.cfg.pinMap false false s.bl (functionSet4 s.cfg.cmdFs4 lineMode fontMode)
        controller := .fourBit .high }

/-- R122: when write number `k` (0 to 3) of INITIALIZE fails, the actions before it have happened, none after it is
issued, the answer is `TransportError`, `INITIALIZED` is false, and `BL` is what it was. Three clauses are the
model's: the prefix of a failed write (notes/assumptions/11.md), the unknown controller (5.md), and the strobes, its
own record of the falling edges of EN (25.md). -/
def Obligations.InitialiseFailureStops : Prop :=
  ∀ (lineMode fontMode : Bool) (k reached : Nat) (s : State),
    k < 4 → s.env.FailsAt k reached →
    exec (.initialise lineMode fontMode) s =
      .next { s with
        initialized := false
        results := s.results ++ [⟨.transportError, []⟩]
        trace := s.trace ++ (initActions s.cfg s.bl lineMode fontMode).take (initWriteIndex k) ++
          [.write s.cfg.i2cAddr (initWriteBytes s.cfg s.bl lineMode fontMode k) false]
        env := s.env.after (k + 1)
        port := (s.driveAll (initReachedBytes s.cfg s.bl lineMode fontMode k reached)).port
        strobes := (s.driveAll (initReachedBytes s.cfg s.bl lineMode fontMode k reached)).strobes
        controller := .unknown }

/-- R123: a `CMD_FS8` with the same high nibble gives the same trace, answers and state; with the default `0x30` the
half frames present the nibble `0x3`. -/
def Obligations.OnlyHighNibbleOfFunctionSet8 : Prop :=
  (∀ (lineMode fontMode : Bool) (fs8 : Byte) (s t : State),
    fs8.extractLsb' 4 4 = s.cfg.cmdFs8.extractLsb' 4 4 →
    exec (.initialise lineMode fontMode) s = .next t →
    exec (.initialise lineMode fontMode) { s with cfg := { s.cfg with cmdFs8 := fs8 } } =
      .next { t with cfg := { t.cfg with cmdFs8 := fs8 } }) ∧
  (∀ (p : Params) (bl : Bool), p.pinMap.wf = true → p.cmdFs8 = 0x30#8 →
    (initHalfFrame p bl).map (nib p.pinMap) = [0x3#4, 0x3#4])

/-- SEND_BYTE (R124): one write of the 4-byte frame with RNW = 0 and the session's BL. On `ok` the port holds the last
byte and EN has fallen twice, over the high nibble first; on `fail` a prefix has arrived, the answer is
`TransportError`, and nothing else of the block has changed. Three clauses are the model's: the strobes, its own
record of the falling edges of EN (notes/assumptions/25.md), the prefix (11.md) and the unknown controller (5.md). -/
def Obligations.SendByteWritesOneFrame : Prop :=
  ∀ (rs : Bool) (data : Byte) (s : State), s.cfg.pinMap.wf = true →
    (s.env.allOk 1 = true →
      exec (.sendByte rs data) s =
        .next { s with
          results := s.results ++ [⟨.ok, []⟩]
          trace := s.trace ++ [.write s.cfg.i2cAddr (encodeFrame s.cfg.pinMap rs false s.bl data) true]
          env := s.env.next
          port := port s.cfg.pinMap rs false false s.bl (loNibble data)
          strobes := s.strobes ++ frameStrobes s.cfg.pinMap rs false s.bl data }) ∧
    (∀ reached, s.env.answer = .fail reached →
      exec (.sendByte rs data) s =
        .next { s with
          results := s.results ++ [⟨.transportError, []⟩]
          trace := s.trace ++ [.write s.cfg.i2cAddr (encodeFrame s.cfg.pinMap rs false s.bl data) false]
          env := s.env.next
          port := (s.driveAll ((encodeFrame s.cfg.pinMap rs false s.bl data).take reached)).port
          strobes := (s.driveAll ((encodeFrame s.cfg.pinMap rs false s.bl data).take reached)).strobes
          controller := .unknown })

/-- SEND_BYTES, every write answered `ok` (R125): one 4-byte write per element, in order, and nothing at all for an
empty sequence. The strobes are the model's record (notes/assumptions/25.md). -/
def Obligations.SendBytesWritesOneFramePerElement : Prop :=
  ∀ (rs : Bool) (bytes : List Byte) (s : State), s.cfg.pinMap.wf = true → s.env.allOk bytes.length = true →
    exec (.sendBytes rs bytes.length bytes) s =
      .next { s with
        results := s.results ++ [⟨.ok, []⟩]
        trace := s.trace ++
          bytes.map (fun b => Action.write s.cfg.i2cAddr (encodeFrame s.cfg.pinMap rs false s.bl b) true)
        env := s.env.after bytes.length
        port := (s.driveAll (bytes.flatMap (encodeFrame s.cfg.pinMap rs false s.bl))).port
        strobes := s.strobes ++ bytes.flatMap (frameStrobes s.cfg.pinMap rs false s.bl) }

/-- SEND_BYTES, the write of element `k` failing (R125): the elements before it stay sent, those after it are never
sent, and the answer is `TransportError`. Three clauses are the model's: the prefix (notes/assumptions/11.md), the
unknown controller (5.md), and the strobes, its own record of the falling edges of EN (25.md). -/
def Obligations.SendBytesStopsAtFirstFailure : Prop :=
  ∀ (rs : Bool) (before after : List Byte) (b : Byte) (reached : Nat) (s : State),
    s.env.FailsAt before.length reached →
    exec (.sendBytes rs (before ++ b :: after).length (before ++ b :: after)) s =
      .next { s with
        results := s.results ++ [⟨.transportError, []⟩]
        trace := s.trace ++
          before.map (fun c => Action.write s.cfg.i2cAddr (encodeFrame s.cfg.pinMap rs false s.bl c) true) ++
          [.write s.cfg.i2cAddr (encodeFrame s.cfg.pinMap rs false s.bl b) false]
        env := s.env.after (before.length + 1)
        port := (s.driveAll (before.flatMap (encodeFrame s.cfg.pinMap rs false s.bl) ++
          (encodeFrame s.cfg.pinMap rs false s.bl b).take reached)).port
        strobes := (s.driveAll (before.flatMap (encodeFrame s.cfg.pinMap rs false s.bl) ++
          (encodeFrame s.cfg.pinMap rs false s.bl b).take reached)).strobes
        controller := .unknown }

/-- SEND_BYTES of a sequence is SEND_BYTE of its first byte followed by SEND_BYTES of the rest: the same trace, port
and controller, if that SEND_BYTE succeeds (R92 (a), R125). -/
def Obligations.SendBytesIsSequentialSendByte : Prop :=
  ∀ (rs : Bool) (b : Byte) (bytes : List Byte) (s t u : State), s.env.allOk 1 = true →
    exec (.sendByte rs b) s = .next t → exec (.sendBytes rs bytes.length bytes) t = .next u →
    ∃ r : Response, u.results = s.results ++ [⟨.ok, []⟩, r] ∧
      exec (.sendBytes rs (b :: bytes).length (b :: bytes)) s =
        .next { u with results := s.results ++ [r] }

/-- RECEIVE_BYTE (R126): one transaction of five operations over one frame of the priming data, `[p2]`, read, `[p1,
p2]`, read, `[p1]`. On `ok` the two samples are decoded into the answer; on `fail` there is no value. The model's
reading: the strobes, the prefix and the unknown controller (notes/assumptions/25.md, 11.md, 5.md). -/
def Obligations.ReceiveByteIsOneTransaction : Prop :=
  ∀ (rs : Bool) (s : State), s.cfg.pinMap.wf = true →
    ∃ p1 p2 : Byte,
      p1 = port s.cfg.pinMap rs true false s.bl (hiNibble s.cfg.readPrimeData) ∧
      p2 = port s.cfg.pinMap rs true true s.bl (loNibble s.cfg.readPrimeData) ∧
      (∀ s0 s1, s.env.answer = .ok s0 s1 →
        exec (.receiveByte rs) s =
          .next { s with
            results := s.results ++ [⟨.ok, [decodeData s.cfg.pinMap s0 s1]⟩]
            trace := s.trace ++
              [.transaction s.cfg.i2cAddr
                [.write [p2], .read 1, .write [p1, p2], .read 1, .write [p1]] (some [[s0], [s1]])]
            env := s.env.next
            port := p1
            strobes := s.strobes ++ [⟨p2, p1⟩, ⟨p2, p1⟩] }) ∧
      (∀ reached, s.env.answer = .fail reached →
        exec (.receiveByte rs) s =
          .next { s with
            results := s.results ++ [⟨.transportError, []⟩]
            trace := s.trace ++
              [.transaction s.cfg.i2cAddr
                [.write [p2], .read 1, .write [p1, p2], .read 1, .write [p1]] none]
            env := s.env.next
            port := (s.driveAll ([p2, p1, p2, p1].take reached)).port
            strobes := (s.driveAll ([p2, p1, p2, p1].take reached)).strobes
            controller := .unknown })

/-- RECEIVE_BYTES, every transaction answered `ok` (R129): one transaction per element, the decoded bytes in order,
and nothing at all for `n = 0`. The strobes are the model's record (notes/assumptions/25.md). -/
def Obligations.ReceiveBytesReadsOnePerElement : Prop :=
  ∀ (rs : Bool) (n : Nat) (s : State), s.cfg.pinMap.wf = true → s.env.allOk n = true →
    (sampledBytes s.cfg.pinMap n s.env).length = n ∧
    exec (.receiveBytes rs n) s =
      .next { s with
        results := s.results ++ [⟨.ok, sampledBytes s.cfg.pinMap n s.env⟩]
        trace := s.trace ++ readActions s.cfg s.bl rs n s.env
        env := s.env.after n
        port := (s.driveAll (List.replicate n (writtenBytes (readOps s.cfg s.bl rs))).flatten).port
        strobes := s.strobes ++ (List.replicate n (readStrobes s.cfg s.bl rs)).flatten }

/-- RECEIVE_BYTES, transaction number `k` failing (R129): the bytes received before it stay with the host, no further
transaction is issued, and the answer is `TransportError`. Four clauses are the model's: the prefix
(notes/assumptions/11.md), the unknown controller (5.md), the bytes in the answer (24.md), and the strobes, its own
record of the falling edges of EN (25.md). -/
def Obligations.ReceiveBytesStopsAtFirstFailure : Prop :=
  ∀ (rs : Bool) (k n reached : Nat) (s : State), k < n → s.env.FailsAt k reached →
    exec (.receiveBytes rs n) s =
      .next { s with
        results := s.results ++ [⟨.transportError, sampledBytes s.cfg.pinMap k s.env⟩]
        trace := s.trace ++ readActions s.cfg s.bl rs k s.env ++
          [.transaction s.cfg.i2cAddr (readOps s.cfg s.bl rs) none]
        env := s.env.after (k + 1)
        port := (s.driveAll ((List.replicate k (writtenBytes (readOps s.cfg s.bl rs))).flatten ++
          (writtenBytes (readOps s.cfg s.bl rs)).take reached)).port
        strobes := (s.driveAll ((List.replicate k (writtenBytes (readOps s.cfg s.bl rs))).flatten ++
          (writtenBytes (readOps s.cfg s.bl rs)).take reached)).strobes
        controller := .unknown }

/-- SET_BACKLIGHT (R132): `BL` is set whatever the write answers; one write of one byte, with BL as given and every
other role 0. Where EN was low there is no falling edge. Three clauses are the model's: the prefix
(notes/assumptions/11.md), the strobes, its own record of the falling edges of EN (25.md), and the controller, which
follows the falls of EN even after a failed write and is not set to unknown (5.md). -/
def Obligations.SetBacklightWritesIdleByte : Prop :=
  ∀ (on : Bool) (s : State), s.cfg.pinMap.wf = true →
    (s.env.allOk 1 = true →
      exec (.setBacklight on) s =
        .next { s with
          bl := on
          results := s.results ++ [⟨.ok, []⟩]
          trace := s.trace ++ [.write s.cfg.i2cAddr [bitAt s.cfg.pinMap.bl on] true]
          env := s.env.next
          port := bitAt s.cfg.pinMap.bl on
          strobes := if s.port.getLsbD s.cfg.pinMap.en then s.strobes ++ [⟨s.port, bitAt s.cfg.pinMap.bl on⟩]
            else s.strobes
          controller := if s.port.getLsbD s.cfg.pinMap.en then s.controller.strobe else s.controller }) ∧
    (∀ reached, s.env.answer = .fail reached →
      exec (.setBacklight on) s =
        .next { s with
          bl := on
          results := s.results ++ [⟨.transportError, []⟩]
          trace := s.trace ++ [.write s.cfg.i2cAddr [bitAt s.cfg.pinMap.bl on] false]
          env := s.env.next
          port := if reached = 0 then s.port else bitAt s.cfg.pinMap.bl on
          strobes := if reached ≠ 0 ∧ s.port.getLsbD s.cfg.pinMap.en
            then s.strobes ++ [⟨s.port, bitAt s.cfg.pinMap.bl on⟩] else s.strobes
          controller := if reached ≠ 0 ∧ s.port.getLsbD s.cfg.pinMap.en
            then s.controller.strobe else s.controller })

/-- DELAY (R133): one delay request of exactly `us`, then `Ok`; it cannot fail and writes no state. -/
def Obligations.DelayPassesThrough : Prop :=
  ∀ (us : Microseconds) (s : State),
    exec (.delay us) s =
      .next { s with
        trace := s.trace ++ [.delay us]
        results := s.results ++ [⟨.ok, []⟩] }

/-- The three port bytes (R73) at the port: the byte replaces `PORT` (R49), and where EN falls from the byte before
there is a falling edge of EN (R51). Nothing of the block changes. Three things are the model's: reading these rows as
bytes arriving at the port (notes/assumptions/8.md), and the record of the falling edges and the nibble phase they
move (25.md). -/
def Obligations.PortBytesDriveThePort : Prop :=
  ∀ (rs rnw bl : Bool) (n : Nibble) (s : State), s.cfg.pinMap.wf = true →
    exec (.strobeHighByte rs rnw bl n) s = .next { s with port := port s.cfg.pinMap rs rnw true bl n } ∧
    exec (.strobeLowByte rs rnw bl n) s =
      .next { s with
        port := port s.cfg.pinMap rs rnw false bl n
        strobes := if s.port.getLsbD s.cfg.pinMap.en
          then s.strobes ++ [⟨s.port, port s.cfg.pinMap rs rnw false bl n⟩] else s.strobes
        controller := if s.port.getLsbD s.cfg.pinMap.en then s.controller.strobe else s.controller } ∧
    exec (.idleByte bl) s =
      .next { s with
        port := bitAt s.cfg.pinMap.bl bl
        strobes := if s.port.getLsbD s.cfg.pinMap.en
          then s.strobes ++ [⟨s.port, bitAt s.cfg.pinMap.bl bl⟩] else s.strobes
        controller := if s.port.getLsbD s.cfg.pinMap.en then s.controller.strobe else s.controller }

/-- R53, R128: in the byte a successful RECEIVE_BYTE with `rs = 0` answers, bit 7, the busy flag, is D7 of the first
sample; bits 6 to 4 of the address counter are D6 to D4 of the first sample and bits 3 to 0 are D7 to D4 of the
second. -/
def Obligations.StatusByteFields : Prop :=
  ∀ (s0 s1 : Byte) (s : State), s.env.answer = .ok s0 s1 →
    ∃ (t : State) (v : Byte), exec (.receiveByte false) s = .next t ∧ t.results = s.results ++ [⟨.ok, [v]⟩] ∧
      busyFlag v = s0.getLsbD s.cfg.pinMap.d7 ∧
      (addressCounter v).getLsbD 6 = s0.getLsbD s.cfg.pinMap.d6 ∧
      (addressCounter v).getLsbD 5 = s0.getLsbD s.cfg.pinMap.d5 ∧
      (addressCounter v).getLsbD 4 = s0.getLsbD s.cfg.pinMap.d4 ∧
      (addressCounter v).getLsbD 3 = s1.getLsbD s.cfg.pinMap.d7 ∧
      (addressCounter v).getLsbD 2 = s1.getLsbD s.cfg.pinMap.d6 ∧
      (addressCounter v).getLsbD 1 = s1.getLsbD s.cfg.pinMap.d5 ∧
      (addressCounter v).getLsbD 0 = s1.getLsbD s.cfg.pinMap.d4

/-- The backlight rides on every frame (R120 (a), R227): every byte of every action an operation adds to the trace
carries the `BL` the operation leaves. -/
def Obligations.BacklightRidesOnEveryByte : Prop :=
  ∀ (i : Instr) (s t : State), s.cfg.pinMap.wf = true → exec i s = .next t →
    ∃ added : List Action, t.trace = s.trace ++ added ∧
      ∀ a ∈ added, ∀ b ∈ a.bytes, b.getLsbD s.cfg.pinMap.bl = t.bl

/-- RNW is fixed by the operation (R120 (b)): 1 in every byte of a read transaction, 0 in every byte of a write. -/
def Obligations.ReadNotWriteFixedByOperation : Prop :=
  ∀ (i : Instr) (s t : State), s.cfg.pinMap.wf = true → exec i s = .next t →
    ∃ added : List Action, t.trace = s.trace ++ added ∧
      ∀ a ∈ added,
        (∀ addr bytes ok, a = .write addr bytes ok → ∀ b ∈ bytes, b.getLsbD s.cfg.pinMap.rnw = false) ∧
        (∀ addr ops samples, a = .transaction addr ops samples →
          (∃ rs, i = .receiveByte rs ∨ ∃ n, i = .receiveBytes rs n) ∧
          ∀ b ∈ a.bytes, b.getLsbD s.cfg.pinMap.rnw = true)

/-- Who writes the session state (R27, R29): `BL` is written by SET_BACKLIGHT alone, `INITIALIZED` by INITIALIZE
alone, and no instruction writes the configuration (R8). -/
def Obligations.SessionStateWriters : Prop :=
  ∀ (i : Instr) (s t : State), exec i s = .next t →
    t.cfg = s.cfg ∧
    ((∀ on, i ≠ .setBacklight on) → t.bl = s.bl) ∧
    (∀ on, i = .setBacklight on → t.bl = on) ∧
    ((∀ l f, i ≠ .initialise l f) → t.initialized = s.initialized)

/-- `INITIALIZED` after an INITIALIZE says whether it answered `Ok` (R28). -/
def Obligations.InitializedSaysInitialiseSucceeded : Prop :=
  ∀ (lineMode fontMode : Bool) (s t : State), exec (.initialise lineMode fontMode) s = .next t →
    ∃ r : Response, t.results = s.results ++ [r] ∧
      (t.initialized = true ↔ r.status = .ok) ∧ (t.initialized = false ↔ r.status = .transportError)

/-- R130: an operation adds at most so many external actions: INITIALIZE 6, SEND_BYTE 1, SEND_BYTES `n`, RECEIVE_BYTE
1, RECEIVE_BYTES `n`, SET_BACKLIGHT 1, DELAY 1, ENCODE and DECODE 0. What is in the trace stays in it. -/
def Obligations.BoundedExternalActions : Prop :=
  ∀ (i : Instr) (s t : State), exec i s = .next t →
    ∃ added : List Action, t.trace = s.trace ++ added ∧ added.length ≤ actionBound i

/-- R191: the first primitive to answer `fail` decides the result, and nothing after it is attempted: an operation's
actions but the last have not failed, and its one answer is `TransportError` exactly if the last one has. -/
def Obligations.FirstFailureEndsOperation : Prop :=
  ∀ (i : Instr) (s t : State), i.isOperation = true → exec i s = .next t →
    ∃ (added : List Action) (r : Response), t.trace = s.trace ++ added ∧ t.results = s.results ++ [r] ∧
      added.dropLast.all (fun a => !a.failed) = true ∧
      (r.status = .transportError ↔ ∃ a, added.getLast? = some a ∧ a.failed = true) ∧
      (r.status = .ok ∨ r.status = .transportError)

/-- R186, error entry: if a primitive inside an operation has answered `fail`, it is the last external action and the only
one that failed, the answer is `TransportError`, `BL` is what it was (for SET_BACKLIGHT the new value), `INITIALIZED` is
what it was (for INITIALIZE false), nothing is taken back from the trace, and the configuration, the sequencer and what the
host presents are as they were. -/
def Obligations.TransportErrorEntry : Prop :=
  ∀ (i : Instr) (s t : State), i.isOperation = true → exec i s = .next t →
    (∃ added, t.trace = s.trace ++ added ∧ ∃ a ∈ added, Action.failed a = true) →
    ∃ (before : List Action) (a : Action) (v : List Byte),
      t.trace = s.trace ++ before ++ [a] ∧ a.failed = true ∧ (∀ b ∈ before, b.failed = false) ∧
      t.results = s.results ++ [⟨.transportError, v⟩] ∧
      ((∀ on, i ≠ .setBacklight on) → t.bl = s.bl) ∧ (∀ on, i = .setBacklight on → t.bl = on) ∧
      ((∀ l f, i ≠ .initialise l f) → t.initialized = s.initialized) ∧
      (∀ l f, i = .initialise l f → t.initialized = false) ∧
      t.cfg = s.cfg ∧ t.seq = s.seq ∧ t.requests = s.requests

/-- R28, R32: no operation reads `INITIALIZED`, `PORT` or the controller: from two states with the same configuration,
`BL` and environment, an operation adds the same actions and the same answer, and leaves the same `BL` and
environment. -/
def Obligations.OperationsDoNotReadGhostOrPort : Prop :=
  ∀ (i : Instr) (s s' t t' : State), i.isOperation = true → s.SameForTheBlock s' →
    exec i s = .next t → exec i s' = .next t' →
    t.SameForTheBlock t' ∧
    ∃ (added : List Action) (r : Response),
      t.trace = s.trace ++ added ∧ t'.trace = s'.trace ++ added ∧
      t.results = s.results ++ [r] ∧ t'.results = s'.results ++ [r]

/-- R44, R49: after `I2cWrite(bytes)` answered `ok` the port holds the last byte; after `fail` it holds what it held
or one of the bytes; the trace gains the write with its answer, to `I2C_ADDR`. The prefix of a failed write is the
environment's (notes/assumptions/11.md). -/
def Obligations.WritePrimitiveAndThePort : Prop :=
  ∀ (bytes : List Byte) (b : Byte) (s : State),
    (s.env.allOk 1 = true → ∃ t, i2cWrite (bytes ++ [b]) s = (true, t) ∧ t.port = b ∧
      t.trace = s.trace ++ [.write s.cfg.i2cAddr (bytes ++ [b]) true]) ∧
    (∀ reached, s.env.answer = .fail reached →
      ∃ t, i2cWrite bytes s = (false, t) ∧ t.port ∈ s.port :: bytes.take reached ∧
        t.trace = s.trace ++ [.write s.cfg.i2cAddr bytes false])

/-- R51, R56, of the port alone: a SEND_BYTE answered `Ok` makes EN fall exactly twice, with the data held stable over
each edge: RS as given, RNW 0, first `data[7:4]`, then `data[3:0]`. What the controller makes of it is
`BootedTransferReachesController`. The strobes are the model's record of those edges (notes/assumptions/25.md). -/
def Obligations.SendByteStrobesHighThenLow : Prop :=
  ∀ (rs : Bool) (data : Byte) (s : State), s.cfg.pinMap.wf = true → s.env.allOk 1 = true →
    ∃ (t : State) (first second : Strobe), exec (.sendByte rs data) s = .next t ∧
      t.strobes = s.strobes ++ [first, second] ∧
      (∀ k ∈ [first, second], k.held s.cfg.pinMap = true ∧
        k.low.getLsbD s.cfg.pinMap.rs = rs ∧ k.low.getLsbD s.cfg.pinMap.rnw = false) ∧
      nib s.cfg.pinMap first.low = data.extractLsb' 4 4 ∧ nib s.cfg.pinMap second.low = data.extractLsb' 0 4

/-- R214, R50, R56: with `INITIALIZED = true`, a controller in 4-bit mode that expects a high nibble, and an `ok` answer, a
SEND_BYTE reaches the controller as one command or character write of `data`, and a RECEIVE_BYTE as one status or data
read, by RS; the controller then expects a high nibble again. The strobes and the phase are the model's record
(notes/assumptions/25.md). -/
def Obligations.BootedTransferReachesController : Prop :=
  ∀ (rs : Bool) (s : State), s.cfg.pinMap.wf = true → s.Booted → s.controller = .fourBit .high →
    s.env.allOk 1 = true →
    (∀ data : Byte, ∃ (t : State) (first second : Strobe), exec (.sendByte rs data) s = .next t ∧
      t.strobes = s.strobes ++ [first, second] ∧ latchedByte s.cfg.pinMap first second = data ∧
      (∀ k ∈ [first, second],
        k.transfer s.cfg.pinMap = if rs then Transfer.characterWrite else Transfer.commandWrite) ∧
      t.controller = .fourBit .high ∧ t.Booted) ∧
    (∃ (t : State) (first second : Strobe), exec (.receiveByte rs) s = .next t ∧
      t.strobes = s.strobes ++ [first, second] ∧
      (∀ k ∈ [first, second], k.transfer s.cfg.pinMap = if rs then Transfer.dataRead else Transfer.statusRead) ∧
      t.controller = .fourBit .high ∧ t.Booted)

/-- R58: every operation but INITIALIZE that answers `Ok` keeps the nibble-pair boundary of a controller in 4-bit
mode, from a port with EN low, and leaves EN low. The nibble phase is the model's reading (notes/assumptions/25.md).
-/
def Obligations.CompletedOperationsKeepNibbleBoundary : Prop :=
  ∀ (i : Instr) (s t : State) (half : NibbleHalf), s.cfg.pinMap.wf = true → i.isOperation = true →
    (∀ l f, i ≠ .initialise l f) → s.controller = .fourBit half → roleBit s.cfg.pinMap .en s.port = false →
    exec i s = .next t → (∃ v, t.results = s.results ++ [⟨.ok, v⟩]) →
    t.controller = .fourBit half ∧ roleBit s.cfg.pinMap .en t.port = false

/-- Every instruction gives a next state from every state: the block never halts on an error (R185), no operation has
another error (R184), and no payload or sample is illegal (R88). -/
def Obligations.EveryInstructionRuns : Prop :=
  ∀ (i : Instr) (s : State), ∃ t, exec i s = .next t ∧
    t.cfg = s.cfg ∧ t.seq = s.seq ∧ t.requests = s.requests

/-- The machine performs what the host presents next, decoded, and nothing else (R12, R41). How operations come to be
presented: notes/assumptions/1.md. -/
def Obligations.StepRunsPresentedOperation : Prop :=
  ∀ (s : State) (r : Request) (rest : List Request) (i : Instr),
    s.seq = .idle → s.requests = r :: rest → decode s.cfg.pinMap r = .ok i →
    step s = exec i { s with requests := rest }

/-- Where nothing is presented nothing happens (R190): the state is unchanged. That such a step exists is the model's
choice (notes/assumptions/21.md). -/
def Obligations.StepWithoutRequestDoesNothing : Prop :=
  ∀ s : State, s.seq = .idle → s.requests = [] → step s = .next s

/-- A step that finds an operation running ends with the sequencer idle and what the host will present untouched: the
host has no move while an operation is in progress (R22, R41). One step to the end of the operation is the model's
choice (notes/assumptions/16.md). -/
def Obligations.StepFinishesRunningOperation : Prop :=
  ∀ (s : State) (op : Instr) (rest : List Planned) (received : List Byte), s.seq = .running op rest received →
    ∃ t, step s = .next t ∧ t.seq = .idle ∧ t.requests = s.requests ∧ t.cfg = s.cfg

/-- R87: op codes 9 to 15 are refused. -/
def Obligations.ReservedOpCodesRefused : Prop :=
  ∀ (s : State) (c : HostCommand) (rest : List Request), s.seq = .idle → s.requests = .command c :: rest →
    9 ≤ c.op.toNat → step s = .refused (.reservedOpCode c.op)

/-- SEND_BYTES announcing another number of bytes than it presents is refused, and one that presents what it announces
runs (R82). The refusal is the model's choice (notes/assumptions/10.md). -/
def Obligations.SendBytesOperandCountChecked : Prop :=
  ∀ (s : State) (c : HostCommand) (rest : List Request), s.seq = .idle → s.requests = .command c :: rest →
    c.op = 4#4 →
    (c.bytes.length = c.n → step s = exec (.sendBytes c.rs c.n c.bytes) { s with requests := rest }) ∧
    (c.bytes.length ≠ c.n → step s = .refused (.operandLengthMismatch c.n c.bytes.length))

/-- Decoding an encoded well-formed instruction gives it back, for every valid PinMap and every operand. That a port
byte is an instruction is the model's reading (notes/assumptions/8.md). -/
def Obligations.DecodeEncodeAgree : Prop :=
  ∀ (m : PinMap) (i : Instr), m.wf = true → i.wf = true → decode m (encode m i) = .ok i

/-- A few words written out from the encodings (R86, R72, R73): op codes with their operand fields, and port bytes
under the default map. That a port byte is an instruction is the model's reading (notes/assumptions/8.md). -/
def Obligations.WrittenOutWordsDecode : Prop :=
  decode PinMap.conventional (.command { HostCommand.blank 0b0000#4 with data := 0xA5#8 }) =
    .ok (.encode false false false 0xA5#8) ∧
  decode PinMap.conventional (.command { HostCommand.blank 0b0011#4 with rs := true, data := 0x41#8 }) =
    .ok (.sendByte true 0x41#8) ∧
  decode PinMap.conventional (.command { HostCommand.blank 0b0111#4 with on := true }) =
    .ok (.setBacklight true) ∧
  decode PinMap.conventional (.portByte false 0b10101101#8) = .ok (.strobeHighByte true false true 0b1010#4) ∧
  decode PinMap.conventional (.portByte false 0b10101001#8) = .ok (.strobeLowByte true false true 0b1010#4) ∧
  decode PinMap.conventional (.portByte true 0b00001000#8) = .ok (.idleByte true)

/-- The sequencer, one external action at a time, does what `exec` says of the whole operation: from an idle block,
starting the operation and advancing to its end gives the same state (R22, R41, R186). The sequencer's form is the
model's (notes/assumptions/16.md). -/
def Obligations.SequencerRefinesOperation : Prop :=
  ∀ (i : Instr) (s : State), i.isOperation = true → s.seq = .idle →
    exec i s = .next (ticks (startOperation i s).seq.remaining (startOperation i s))

/-- Every step keeps the invariant: a valid configuration, an idle sequencer, a trace in which every action goes to
`I2C_ADDR` and has one of the block's shapes (R48, R59, R75, R77), and a controller known to be in 4-bit mode only
where `INITIALIZED` is true (R28, R214). What is known of the controller is the model's reading
(notes/assumptions/5.md, 25.md). -/
def Obligations.StepKeepsInvariant : Prop :=
  ∀ s t : State, s.Inv → step s = .next t → t.Inv

/-- The invariant holds right after reset. -/
def Obligations.ResetHasInvariant : Prop := State.reset.Inv

/-- R210, R35: construction with a valid configuration gives `BL = BL_INIT`, `INITIALIZED = false`, an idle block, an
empty trace and no answer. With a PinMap whose positions are not distinct there is no instance (R183). Refusing also
another map than the default under the conventional policy (notes/assumptions/20.md) and an `INIT_FINAL_LEN` outside
1..4 (12.md), the empty requests (1.md), and `unknown` for the controller (5.md) are the model's. -/
def Obligations.ConstructionSetsSessionState : Prop :=
  ∀ p : Params,
    (p.pinMap.positions.Nodup → p.policy = .custom ∨ p.pinMap = PinMap.conventional →
      1 ≤ p.initFinalLen → p.initFinalLen ≤ 4 →
      ∃ s, State.construct p = some s ∧ s.cfg = p ∧ s.bl = p.blInit ∧ s.initialized = false ∧ s.seq = .idle ∧
        s.trace = [] ∧ s.results = [] ∧ s.requests = [] ∧ s.controller = .unknown) ∧
    (¬ p.pinMap.positions.Nodup → State.construct p = none) ∧
    (p.policy = .conventional → p.pinMap ≠ PinMap.conventional → State.construct p = none) ∧
    (p.initFinalLen = 0 ∨ 4 < p.initFinalLen → State.construct p = none)

/-- R8, R183: the configuration is an argument of the machine, and a valid one is its precondition. For every valid
configuration `p`, construction with `p` gives the reset of the machine of `p`, and that machine, whose states hold no
configuration, runs as the one machine does on states with configuration `p`, for any number of steps; and `State.reset` is
the reset of the machine of the reset instance's configuration, which is valid. That `exec` reads the configuration from a
field is the model's form (notes/assumptions/3.md). -/
def Obligations.ConfigurationIsAnArgument : Prop :=
  (∀ (p : Params) (valid : p.wf = true),
    State.construct p = some (Session.under p (machine p valid).reset) ∧
    ∀ (k : Nat) (s : Session),
      Sys2Proof.core.run k (s.under p) = outcomeUnder p ((machine p valid).run k s)) ∧
  ∃ valid : Config.params.wf = true, State.reset = Session.under Config.params (machine Config.params valid).reset

/-- R25, R89: eight numbers make a PinMap exactly if each is in 0..7 and all are distinct, and its positions are those
numbers. -/
def Obligations.PinMapIsPermutation : Prop :=
  ∀ l : List Nat,
    (∀ m, PinMap.ofPositions l = some m → m.wf = true ∧ m.positions.map Fin.val = l) ∧
    ((PinMap.ofPositions l).isSome = true ↔ l.length = 8 ∧ (∀ x ∈ l, x < 8) ∧ l.Nodup)

/-- R161: POSITION outside the geometry is a RangeError with no external action and no change of state. -/
def Obligations.PositionRangeError : Prop :=
  ∀ (g : LayerParams) (row col : Nat) (s : State), g.rows ≤ row ∨ g.cols ≤ col →
    layerPosition g row col s = (.rangeError, s)

/-- POSITION inside the geometry, in two-line mode, with an address of 7 bits (R162, R164): it is SEND_BYTE of the
command `CMD_SET_DDRAM | ((row % 2) * 0x40 + col)`, and its status is the block's. Two clauses are the model's
choice: the formula for rows 2 and 3 (notes/assumptions/26.md), and that no delay follows the command, which R164 and D25
leave OPEN (19.md). -/
def Obligations.PositionSendsDdramAddress : Prop :=
  ∀ (g : LayerParams) (row col : Nat) (s : State), row < g.rows → col < g.cols → g.lineMode = true →
    (row % 2) * 0x40 + col < 128 →
    ∃ (t : State) (r : Response),
      exec (.sendByte false (g.cmdSetDdram ||| BitVec.ofNat 8 ((row % 2) * 0x40 + col))) s = .next t ∧
      t.results = s.results ++ [r] ∧ layerPosition g row col s = (r.status, t)

/-- R165: clear and home send their command and then request 1520 microseconds; if the send fails there is no delay.
-/
def Obligations.ClearAndHomeRequestDelay : Prop :=
  ∀ (g : LayerParams) (s t : State),
    (exec (.sendByte false g.cmdClear) s = .next t →
      (s.env.allOk 1 = true → ∃ u, exec (.delay 1520#32) t = .next u ∧ layerClear g s = (.ok, u)) ∧
      (s.env.allOk 1 = false → layerClear g s = (.transportError, t))) ∧
    (exec (.sendByte false g.cmdHome) s = .next t →
      (s.env.allOk 1 = true → ∃ u, exec (.delay 1520#32) t = .next u ∧ layerHome g s = (.ok, u)) ∧
      (s.env.allOk 1 = false → layerHome g s = (.transportError, t)))

/-- R167: the glyph code mask keeps bits 2 to 0 for the 5x8 font (codes 0 to 7) and bits 2 and 1 for the 5x10 font
(codes 0, 2, 4 and 6). -/
def Obligations.GlyphCodeMask : Prop :=
  ∀ (g : LayerParams) (code : Byte),
    (g.fontMode = false → glyphCode g code = code &&& 0b00000111#8 ∧ (glyphCode g code).toNat ≤ 7) ∧
    (g.fontMode = true → glyphCode g code = code &&& 0b00000110#8 ∧ (glyphCode g code).toNat ∈ [0, 2, 4, 6])

/-- The data part of a glyph's definition (R168): SEND_BYTES with RS = 1 of all its rows, 8 in the 5x8 font and 10 in the
5x10 font, one byte each and in order. Two clauses are the model's: the significant bits are the low five of a byte, from
the spec's general knowledge (notes/assumptions/27.md), and the rows are the whole traffic of this call, which leaves out
the command that selects the CGRAM address, as it is not in the source (N-42-2; 19.md). -/
def Obligations.GlyphRowsGoOutAsData : Prop :=
  ∀ (g : LayerParams) (bitmap : GlyphBitmap g) (s : State),
    ∃ (bytes : List Byte) (t : State) (r : Response),
      bytes.length = (if g.fontMode then 10 else 8) ∧
      bytes.map (BitVec.extractLsb' 0 5) = bitmap.toList ∧
      exec (.sendBytes true bytes.length bytes) s = .next t ∧ t.results = s.results ++ [r] ∧
      layerGlyphData g bitmap s = (r.status, t)
end

