-- ==== Sys2Proof/Laws/Operands.lean ====
section
/-! SUPPORT. Bit by bit, what the operand assembly does. -/

namespace Sys2Proof.Machine

/-- A placed bit stands at its position and nowhere else. -/
theorem bitAt_getLsbD (p q : Fin 8) (v : Bool) : (bitAt p v).getLsbD q.val = (v && decide (q = p)) := by
  revert p q v; decide

/-- The bit of a port byte at any position, as the sum of R78 gives it. -/
theorem port_getLsbD (m : PinMap) (rs rnw en bl : Bool) (n : Nibble) (q : Fin 8) :
    (port m rs rnw en bl n).getLsbD q.val =
      ((rs && decide (q = m.rs)) || (rnw && decide (q = m.rnw)) || (en && decide (q = m.en))
        || (bl && decide (q = m.bl)) || (n.getLsbD 0 && decide (q = m.d4)) || (n.getLsbD 1 && decide (q = m.d5))
        || (n.getLsbD 2 && decide (q = m.d6)) || (n.getLsbD 3 && decide (q = m.d7))) := by
  simp only [port, BitVec.getLsbD_or, bitAt_getLsbD]

/-- Two bytes with the same bits at the eight positions are the same byte. -/
theorem byte_ext {a b : Byte} (h : ∀ q : Fin 8, a.getLsbD q.val = b.getLsbD q.val) : a = b :=
  BitVec.eq_of_getLsbD_eq fun i hi => h ⟨i, hi⟩

/-- Bit `k` of an unmarshalled nibble. -/
theorem nib_getLsbD (m : PinMap) (s : Byte) :
    (nib m s).getLsbD 0 = roleBit m .d4 s ∧ (nib m s).getLsbD 1 = roleBit m .d5 s ∧
      (nib m s).getLsbD 2 = roleBit m .d6 s ∧ (nib m s).getLsbD 3 = roleBit m .d7 s := by
  simp only [nib, BitVec.getLsbD_append, BitVec.getLsbD_ofBool]
  simp

/-- Bits of a joined byte: the low nibble below the high one. -/
theorem joinNibbles_getLsbD (hi lo : Nibble) (k : Nat) (hk : k < 4) :
    (joinNibbles hi lo).getLsbD k = lo.getLsbD k ∧ (joinNibbles hi lo).getLsbD (k + 4) = hi.getLsbD k := by
  simp only [joinNibbles, BitVec.getLsbD_append]
  simp [hk]

/-- A byte is its two nibbles. -/
@[simp] theorem joinNibbles_hi_lo (data : Byte) : joinNibbles (hiNibble data) (loNibble data) = data := by
  revert data; decide

/-- The whole frame is its own slice. -/
@[simp] theorem sendFrameBytes_eq (p : Params) (bl rs : Bool) (data : Byte) :
    sendFrameBytes p bl rs data = encodeFrame p.pinMap rs false bl data := rfl

end Sys2Proof.Machine
end

