-- ==== Sys2Proof/Laws/State.lean ====
section
/-! SUPPORT. One lemma per field per update of State, true by rfl, so that no proof unfolds a record update. -/

namespace Sys2Proof.Machine

variable (s : State)

@[simp] theorem State.setBl_cfg (v : Bool) : (s.setBl v).cfg = s.cfg := rfl
@[simp] theorem State.setBl_bl (v : Bool) : (s.setBl v).bl = v := rfl
@[simp] theorem State.setBl_initialized (v : Bool) : (s.setBl v).initialized = s.initialized := rfl
@[simp] theorem State.setBl_seq (v : Bool) : (s.setBl v).seq = s.seq := rfl
@[simp] theorem State.setBl_requests (v : Bool) : (s.setBl v).requests = s.requests := rfl
@[simp] theorem State.setBl_results (v : Bool) : (s.setBl v).results = s.results := rfl
@[simp] theorem State.setBl_trace (v : Bool) : (s.setBl v).trace = s.trace := rfl
@[simp] theorem State.setBl_env (v : Bool) : (s.setBl v).env = s.env := rfl
@[simp] theorem State.setBl_port (v : Bool) : (s.setBl v).port = s.port := rfl
@[simp] theorem State.setBl_strobes (v : Bool) : (s.setBl v).strobes = s.strobes := rfl
@[simp] theorem State.setBl_controller (v : Bool) : (s.setBl v).controller = s.controller := rfl

@[simp] theorem State.setInitialized_cfg (v : Bool) : (s.setInitialized v).cfg = s.cfg := rfl
@[simp] theorem State.setInitialized_bl (v : Bool) : (s.setInitialized v).bl = s.bl := rfl
@[simp] theorem State.setInitialized_initialized (v : Bool) : (s.setInitialized v).initialized = v := rfl
@[simp] theorem State.setInitialized_seq (v : Bool) : (s.setInitialized v).seq = s.seq := rfl
@[simp] theorem State.setInitialized_requests (v : Bool) : (s.setInitialized v).requests = s.requests := rfl
@[simp] theorem State.setInitialized_results (v : Bool) : (s.setInitialized v).results = s.results := rfl
@[simp] theorem State.setInitialized_trace (v : Bool) : (s.setInitialized v).trace = s.trace := rfl
@[simp] theorem State.setInitialized_env (v : Bool) : (s.setInitialized v).env = s.env := rfl
@[simp] theorem State.setInitialized_port (v : Bool) : (s.setInitialized v).port = s.port := rfl
@[simp] theorem State.setInitialized_strobes (v : Bool) : (s.setInitialized v).strobes = s.strobes := rfl
@[simp] theorem State.setInitialized_controller (v : Bool) : (s.setInitialized v).controller = s.controller := rfl

@[simp] theorem State.setSeq_cfg (q : Sequencer) : (s.setSeq q).cfg = s.cfg := rfl
@[simp] theorem State.setSeq_bl (q : Sequencer) : (s.setSeq q).bl = s.bl := rfl
@[simp] theorem State.setSeq_initialized (q : Sequencer) : (s.setSeq q).initialized = s.initialized := rfl
@[simp] theorem State.setSeq_seq (q : Sequencer) : (s.setSeq q).seq = q := rfl
@[simp] theorem State.setSeq_requests (q : Sequencer) : (s.setSeq q).requests = s.requests := rfl
@[simp] theorem State.setSeq_results (q : Sequencer) : (s.setSeq q).results = s.results := rfl
@[simp] theorem State.setSeq_trace (q : Sequencer) : (s.setSeq q).trace = s.trace := rfl
@[simp] theorem State.setSeq_env (q : Sequencer) : (s.setSeq q).env = s.env := rfl
@[simp] theorem State.setSeq_port (q : Sequencer) : (s.setSeq q).port = s.port := rfl
@[simp] theorem State.setSeq_strobes (q : Sequencer) : (s.setSeq q).strobes = s.strobes := rfl
@[simp] theorem State.setSeq_controller (q : Sequencer) : (s.setSeq q).controller = s.controller := rfl

@[simp] theorem State.setRequests_cfg (r : List Request) : (s.setRequests r).cfg = s.cfg := rfl
@[simp] theorem State.setRequests_bl (r : List Request) : (s.setRequests r).bl = s.bl := rfl
@[simp] theorem State.setRequests_initialized (r : List Request) : (s.setRequests r).initialized = s.initialized := rfl
@[simp] theorem State.setRequests_seq (r : List Request) : (s.setRequests r).seq = s.seq := rfl
@[simp] theorem State.setRequests_requests (r : List Request) : (s.setRequests r).requests = r := rfl
@[simp] theorem State.setRequests_results (r : List Request) : (s.setRequests r).results = s.results := rfl
@[simp] theorem State.setRequests_trace (r : List Request) : (s.setRequests r).trace = s.trace := rfl
@[simp] theorem State.setRequests_env (r : List Request) : (s.setRequests r).env = s.env := rfl
@[simp] theorem State.setRequests_port (r : List Request) : (s.setRequests r).port = s.port := rfl
@[simp] theorem State.setRequests_strobes (r : List Request) : (s.setRequests r).strobes = s.strobes := rfl
@[simp] theorem State.setRequests_controller (r : List Request) : (s.setRequests r).controller = s.controller := rfl

@[simp] theorem State.setEnv_cfg (e : Environment) : (s.setEnv e).cfg = s.cfg := rfl
@[simp] theorem State.setEnv_bl (e : Environment) : (s.setEnv e).bl = s.bl := rfl
@[simp] theorem State.setEnv_initialized (e : Environment) : (s.setEnv e).initialized = s.initialized := rfl
@[simp] theorem State.setEnv_seq (e : Environment) : (s.setEnv e).seq = s.seq := rfl
@[simp] theorem State.setEnv_requests (e : Environment) : (s.setEnv e).requests = s.requests := rfl
@[simp] theorem State.setEnv_results (e : Environment) : (s.setEnv e).results = s.results := rfl
@[simp] theorem State.setEnv_trace (e : Environment) : (s.setEnv e).trace = s.trace := rfl
@[simp] theorem State.setEnv_env (e : Environment) : (s.setEnv e).env = e := rfl
@[simp] theorem State.setEnv_port (e : Environment) : (s.setEnv e).port = s.port := rfl
@[simp] theorem State.setEnv_strobes (e : Environment) : (s.setEnv e).strobes = s.strobes := rfl
@[simp] theorem State.setEnv_controller (e : Environment) : (s.setEnv e).controller = s.controller := rfl

@[simp] theorem State.setController_cfg (c : ControllerBus) : (s.setController c).cfg = s.cfg := rfl
@[simp] theorem State.setController_bl (c : ControllerBus) : (s.setController c).bl = s.bl := rfl
@[simp] theorem State.setController_initialized (c : ControllerBus) : (s.setController c).initialized = s.initialized := rfl
@[simp] theorem State.setController_seq (c : ControllerBus) : (s.setController c).seq = s.seq := rfl
@[simp] theorem State.setController_requests (c : ControllerBus) : (s.setController c).requests = s.requests := rfl
@[simp] theorem State.setController_results (c : ControllerBus) : (s.setController c).results = s.results := rfl
@[simp] theorem State.setController_trace (c : ControllerBus) : (s.setController c).trace = s.trace := rfl
@[simp] theorem State.setController_env (c : ControllerBus) : (s.setController c).env = s.env := rfl
@[simp] theorem State.setController_port (c : ControllerBus) : (s.setController c).port = s.port := rfl
@[simp] theorem State.setController_strobes (c : ControllerBus) : (s.setController c).strobes = s.strobes := rfl
@[simp] theorem State.setController_controller (c : ControllerBus) : (s.setController c).controller = c := rfl

@[simp] theorem State.record_cfg (a : Action) : (s.record a).cfg = s.cfg := rfl
@[simp] theorem State.record_bl (a : Action) : (s.record a).bl = s.bl := rfl
@[simp] theorem State.record_initialized (a : Action) : (s.record a).initialized = s.initialized := rfl
@[simp] theorem State.record_seq (a : Action) : (s.record a).seq = s.seq := rfl
@[simp] theorem State.record_requests (a : Action) : (s.record a).requests = s.requests := rfl
@[simp] theorem State.record_results (a : Action) : (s.record a).results = s.results := rfl
@[simp] theorem State.record_trace (a : Action) : (s.record a).trace = s.trace ++ [a] := rfl
@[simp] theorem State.record_env (a : Action) : (s.record a).env = s.env := rfl
@[simp] theorem State.record_port (a : Action) : (s.record a).port = s.port := rfl
@[simp] theorem State.record_strobes (a : Action) : (s.record a).strobes = s.strobes := rfl
@[simp] theorem State.record_controller (a : Action) : (s.record a).controller = s.controller := rfl

@[simp] theorem State.answer_cfg (r : Response) : (s.answer r).cfg = s.cfg := rfl
@[simp] theorem State.answer_bl (r : Response) : (s.answer r).bl = s.bl := rfl
@[simp] theorem State.answer_initialized (r : Response) : (s.answer r).initialized = s.initialized := rfl
@[simp] theorem State.answer_seq (r : Response) : (s.answer r).seq = s.seq := rfl
@[simp] theorem State.answer_requests (r : Response) : (s.answer r).requests = s.requests := rfl
@[simp] theorem State.answer_results (r : Response) : (s.answer r).results = s.results ++ [r] := rfl
@[simp] theorem State.answer_trace (r : Response) : (s.answer r).trace = s.trace := rfl
@[simp] theorem State.answer_env (r : Response) : (s.answer r).env = s.env := rfl
@[simp] theorem State.answer_port (r : Response) : (s.answer r).port = s.port := rfl
@[simp] theorem State.answer_strobes (r : Response) : (s.answer r).strobes = s.strobes := rfl
@[simp] theorem State.answer_controller (r : Response) : (s.answer r).controller = s.controller := rfl

@[simp] theorem State.answerOk_cfg (v : List Byte) : (s.answerOk v).cfg = s.cfg := rfl
@[simp] theorem State.answerOk_bl (v : List Byte) : (s.answerOk v).bl = s.bl := rfl
@[simp] theorem State.answerOk_initialized (v : List Byte) : (s.answerOk v).initialized = s.initialized := rfl
@[simp] theorem State.answerOk_seq (v : List Byte) : (s.answerOk v).seq = s.seq := rfl
@[simp] theorem State.answerOk_requests (v : List Byte) : (s.answerOk v).requests = s.requests := rfl
@[simp] theorem State.answerOk_results (v : List Byte) : (s.answerOk v).results = s.results ++ [⟨.ok, v⟩] := rfl
@[simp] theorem State.answerOk_trace (v : List Byte) : (s.answerOk v).trace = s.trace := rfl
@[simp] theorem State.answerOk_env (v : List Byte) : (s.answerOk v).env = s.env := rfl
@[simp] theorem State.answerOk_port (v : List Byte) : (s.answerOk v).port = s.port := rfl
@[simp] theorem State.answerOk_strobes (v : List Byte) : (s.answerOk v).strobes = s.strobes := rfl
@[simp] theorem State.answerOk_controller (v : List Byte) : (s.answerOk v).controller = s.controller := rfl

@[simp] theorem State.raiseTransportError_cfg (v : List Byte) : (s.raiseTransportError v).cfg = s.cfg := rfl
@[simp] theorem State.raiseTransportError_bl (v : List Byte) : (s.raiseTransportError v).bl = s.bl := rfl
@[simp] theorem State.raiseTransportError_initialized (v : List Byte) : (s.raiseTransportError v).initialized = s.initialized := rfl
@[simp] theorem State.raiseTransportError_seq (v : List Byte) : (s.raiseTransportError v).seq = s.seq := rfl
@[simp] theorem State.raiseTransportError_requests (v : List Byte) : (s.raiseTransportError v).requests = s.requests := rfl
@[simp] theorem State.raiseTransportError_results (v : List Byte) : (s.raiseTransportError v).results = s.results ++ [⟨.transportError, v⟩] := rfl
@[simp] theorem State.raiseTransportError_trace (v : List Byte) : (s.raiseTransportError v).trace = s.trace := rfl
@[simp] theorem State.raiseTransportError_env (v : List Byte) : (s.raiseTransportError v).env = s.env := rfl
@[simp] theorem State.raiseTransportError_port (v : List Byte) : (s.raiseTransportError v).port = s.port := rfl
@[simp] theorem State.raiseTransportError_strobes (v : List Byte) : (s.raiseTransportError v).strobes = s.strobes := rfl
@[simp] theorem State.raiseTransportError_controller (v : List Byte) : (s.raiseTransportError v).controller = s.controller := rfl

@[simp] theorem State.drive_cfg (b : Byte) :
    (s.drive b).cfg = s.cfg := rfl
@[simp] theorem State.drive_bl (b : Byte) :
    (s.drive b).bl = s.bl := rfl
@[simp] theorem State.drive_initialized (b : Byte) :
    (s.drive b).initialized = s.initialized := rfl
@[simp] theorem State.drive_seq (b : Byte) :
    (s.drive b).seq = s.seq := rfl
@[simp] theorem State.drive_requests (b : Byte) :
    (s.drive b).requests = s.requests := rfl
@[simp] theorem State.drive_results (b : Byte) :
    (s.drive b).results = s.results := rfl
@[simp] theorem State.drive_trace (b : Byte) :
    (s.drive b).trace = s.trace := rfl
@[simp] theorem State.drive_env (b : Byte) :
    (s.drive b).env = s.env := rfl
@[simp] theorem State.drive_port (b : Byte) :
    (s.drive b).port = b := rfl
@[simp] theorem State.drive_strobes (b : Byte) :
    (s.drive b).strobes = if enableFalls s.cfg.pinMap s.port b then s.strobes ++ [⟨s.port, b⟩] else s.strobes := rfl
@[simp] theorem State.drive_controller (b : Byte) :
    (s.drive b).controller = if enableFalls s.cfg.pinMap s.port b then s.controller.strobe else s.controller := rfl

@[simp] theorem delayUs_eq (us : Microseconds) : delayUs us s = s.record (.delay us) := rfl

end Sys2Proof.Machine
end

