-- ==== Sys2Proof/Laws/Ops.lean ====
section
/-! SUPPORT. For each shared operation, once, everything it can do. -/

namespace Sys2Proof.Machine

/-! ### The environment -/

@[simp] theorem Environment.after_zero (e : Environment) : e.after 0 = e := rfl

@[simp] theorem Environment.after_succ (k : Nat) (e : Environment) : e.after (k + 1) = e.next.after k := rfl

theorem Environment.allOk_zero (e : Environment) : e.allOk 0 = true := rfl

theorem Environment.allOk_succ (k : Nat) (e : Environment) :
    e.allOk (k + 1) = (e.answer.isOk && e.next.allOk k) := rfl

/-- An answer is `ok` with two samples or `fail` after some bytes. -/
theorem EnvAnswer.ok_or_fail (a : EnvAnswer) : (∃ s0 s1, a = .ok s0 s1) ∨ ∃ k, a = .fail k := by
  cases a with
  | ok s0 s1 => exact .inl ⟨s0, s1, rfl⟩
  | fail k => exact .inr ⟨k, rfl⟩

/-- Where an answer is `ok`, its samples. -/
theorem EnvAnswer.isOk_iff (a : EnvAnswer) : a.isOk = true ↔ ∃ s0 s1, a = .ok s0 s1 := by
  cases a <;> simp [EnvAnswer.isOk]

/-- A first failure at `k + 1`: an `ok`, and a first failure at `k` after it. -/
theorem Environment.failsAt_succ (k reached : Nat) (e : Environment) :
    e.FailsAt (k + 1) reached ↔ (∃ s0 s1, e.answer = .ok s0 s1) ∧ e.next.FailsAt k reached := by
  simp [Environment.FailsAt, Environment.allOk_succ, EnvAnswer.isOk_iff, and_assoc]

/-! ### The port -/

@[simp] theorem driveAll_nil (s : State) : s.driveAll [] = s := rfl

@[simp] theorem driveAll_cons (b : Byte) (bs : List Byte) (s : State) :
    s.driveAll (b :: bs) = (s.drive b).driveAll bs := rfl

theorem driveAll_append (as bs : List Byte) (s : State) :
    s.driveAll (as ++ bs) = (s.driveAll as).driveAll bs := by
  induction as generalizing s with
  | nil => rfl
  | cons a as ih => exact ih (s.drive a)

/-- Bytes arriving at the port change the port, the strobes and the controller's bus, and nothing else. -/
theorem driveAll_frame (bs : List Byte) (s : State) :
    s.driveAll bs = { s with
      port := (s.driveAll bs).port
      strobes := (s.driveAll bs).strobes
      controller := (s.driveAll bs).controller } := by
  induction bs generalizing s with
  | nil => rfl
  | cons b bs ih => exact ih (s.drive b)

@[simp] theorem driveAll_cfg (bs : List Byte) (s : State) : (s.driveAll bs).cfg = s.cfg := by
  rw [driveAll_frame]

@[simp] theorem driveAll_bl (bs : List Byte) (s : State) : (s.driveAll bs).bl = s.bl := by
  rw [driveAll_frame]

@[simp] theorem driveAll_initialized (bs : List Byte) (s : State) :
    (s.driveAll bs).initialized = s.initialized := by
  rw [driveAll_frame]

@[simp] theorem driveAll_seq (bs : List Byte) (s : State) : (s.driveAll bs).seq = s.seq := by
  rw [driveAll_frame]

@[simp] theorem driveAll_requests (bs : List Byte) (s : State) : (s.driveAll bs).requests = s.requests := by
  rw [driveAll_frame]

@[simp] theorem driveAll_results (bs : List Byte) (s : State) : (s.driveAll bs).results = s.results := by
  rw [driveAll_frame]

@[simp] theorem driveAll_trace (bs : List Byte) (s : State) : (s.driveAll bs).trace = s.trace := by
  rw [driveAll_frame]

@[simp] theorem driveAll_env (bs : List Byte) (s : State) : (s.driveAll bs).env = s.env := by
  rw [driveAll_frame]

/-- What arrives at the port depends on the PinMap and the wires alone: the same bytes from two states that agree there
give the same port, strobes and controller. -/
theorem driveAll_congr (bs : List Byte) {s t : State} (hm : s.cfg.pinMap = t.cfg.pinMap) (hp : s.port = t.port)
    (hk : s.strobes = t.strobes) (hc : s.controller = t.controller) :
    (s.driveAll bs).port = (t.driveAll bs).port ∧ (s.driveAll bs).strobes = (t.driveAll bs).strobes ∧
      (s.driveAll bs).controller = (t.driveAll bs).controller := by
  induction bs generalizing s t with
  | nil => exact ⟨hp, hk, hc⟩
  | cons b bs ih => apply ih <;> simp [hm, hp, hk, hc]

/-- After some bytes the port holds the last of them. -/
theorem driveAll_port_append (bs : List Byte) (b : Byte) (s : State) : (s.driveAll (bs ++ [b])).port = b := by
  simp [driveAll_append]

/-- After some bytes, perhaps none, the port holds what it held or one of them. -/
theorem driveAll_port_mem (bs : List Byte) (s : State) : (s.driveAll bs).port ∈ s.port :: bs := by
  induction bs generalizing s with
  | nil => simp
  | cons b bs ih => exact List.mem_cons_of_mem _ (ih (s.drive b))

/-! ### The primitives -/

/-- `I2cWrite` answered `ok`. -/
theorem i2cWrite_ok {s : State} {s0 s1 : Byte} (h : s.env.answer = .ok s0 s1) (bytes : List Byte) :
    i2cWrite bytes s =
      (true, ((s.setEnv s.env.next).driveAll bytes).record (.write s.cfg.i2cAddr bytes true)) := by
  simp only [i2cWrite, h]

/-- `I2cWrite` answered `fail`. -/
theorem i2cWrite_fail {s : State} {k : Nat} (h : s.env.answer = .fail k) (bytes : List Byte) :
    i2cWrite bytes s =
      (false, ((s.setEnv s.env.next).driveAll (bytes.take k)).record (.write s.cfg.i2cAddr bytes false)) := by
  simp only [i2cWrite, h]

/-- `I2cTransaction` answered `ok`. -/
theorem i2cTransaction_ok {s : State} {s0 s1 : Byte} (h : s.env.answer = .ok s0 s1) (ops : List BusOp) :
    i2cTransaction ops s =
      (some (s0, s1), ((s.setEnv s.env.next).driveAll (writtenBytes ops)).record
        (.transaction s.cfg.i2cAddr ops (some [[s0], [s1]]))) := by
  simp only [i2cTransaction, h]

/-- `I2cTransaction` answered `fail`. -/
theorem i2cTransaction_fail {s : State} {k : Nat} (h : s.env.answer = .fail k) (ops : List BusOp) :
    i2cTransaction ops s =
      (none, ((s.setEnv s.env.next).driveAll ((writtenBytes ops).take k)).record
        (.transaction s.cfg.i2cAddr ops none)) := by
  simp only [i2cTransaction, h]

/-- A write of strobe pairs answered `ok`, where the source says what the controller then is. -/
theorem strobedWrite_reach {s : State} {s0 s1 : Byte} (h : s.env.answer = .ok s0 s1) (c : ControllerBus)
    (bytes : List Byte) :
    strobedWrite (some c) bytes s =
      (true, (((s.setEnv s.env.next).driveAll bytes).record (.write s.cfg.i2cAddr bytes true)).setController c) := by
  simp only [strobedWrite, i2cWrite_ok h]

/-- A write of strobe pairs answered `ok`, where the source says nothing of the controller. -/
theorem strobedWrite_ok {s : State} {s0 s1 : Byte} (h : s.env.answer = .ok s0 s1) (bytes : List Byte) :
    strobedWrite none bytes s =
      (true, ((s.setEnv s.env.next).driveAll bytes).record (.write s.cfg.i2cAddr bytes true)) := by
  simp only [strobedWrite, i2cWrite_ok h]

/-- A write of strobe pairs answered `fail`. -/
theorem strobedWrite_fail {s : State} {k : Nat} (h : s.env.answer = .fail k) (reach : Option ControllerBus)
    (bytes : List Byte) :
    strobedWrite reach bytes s =
      (false, (((s.setEnv s.env.next).driveAll (bytes.take k)).record
        (.write s.cfg.i2cAddr bytes false)).setController .unknown) := by
  simp only [strobedWrite, i2cWrite_fail h]

/-- A read transaction answered `ok`. -/
theorem readTransaction_ok {s : State} {s0 s1 : Byte} (h : s.env.answer = .ok s0 s1) (ops : List BusOp) :
    readTransaction ops s =
      (some (decodeData s.cfg.pinMap s0 s1), ((s.setEnv s.env.next).driveAll (writtenBytes ops)).record
        (.transaction s.cfg.i2cAddr ops (some [[s0], [s1]]))) := by
  simp only [readTransaction, i2cTransaction_ok h]

/-- A read transaction answered `fail`. -/
theorem readTransaction_fail {s : State} {k : Nat} (h : s.env.answer = .fail k) (ops : List BusOp) :
    readTransaction ops s =
      (none, (((s.setEnv s.env.next).driveAll ((writtenBytes ops).take k)).record
        (.transaction s.cfg.i2cAddr ops none)).setController .unknown) := by
  simp only [readTransaction, i2cTransaction_fail h]

@[simp] theorem orRaise_true (s : State) (f : State → Bool × State) : orRaise (true, s) f = f s := rfl

@[simp] theorem orRaise_false (s : State) (f : State → Bool × State) : orRaise (false, s) f = (false, s) := rfl

@[simp] theorem finish_true (s : State) : finish (true, s) = s.answerOk [] := rfl

@[simp] theorem finish_false (s : State) : finish (false, s) = s.raiseTransportError [] := rfl

end Sys2Proof.Machine
end

