-- ==== Sys2Proof/Laws/Exec.lean ====
section
/-! SUPPORT. What one instruction can do, said once: later proofs cite `exec_effect` and unfold no meaning. -/

namespace Sys2Proof.Machine

/-- How far a run of external actions got: nothing of the block's own state changed, and the trace gained at most `n`
actions, each of them `P`, of which all answered `ok` if the run did, and only the last failed if it did not. -/
structure Progress (P : Action → Prop) (s t : State) (ok : Bool) (n : Nat) : Prop where
  cfg : t.cfg = s.cfg
  bl : t.bl = s.bl
  ini : t.initialized = s.initialized
  seq : t.seq = s.seq
  req : t.requests = s.requests
  res : t.results = s.results
  tr : ∃ added, t.trace = s.trace ++ added ∧ added.length ≤ n ∧ (ok = true → ∀ a ∈ added, a.failed = false) ∧
     (ok = false → ∃ pre last, added = pre ++ [last] ∧ (∀ a ∈ pre, a.failed = false) ∧ last.failed = true) ∧
       ∀ a ∈ added, P a

/-- No action. -/
theorem Progress.refl (P) (s : State) : Progress P s s true 0 := ⟨rfl, rfl, rfl, rfl, rfl, rfl, [], by simp⟩

/-- One run after another. -/
theorem Progress.trans {P s t u n m ok} (h1 : Progress P s t true n) (h2 : Progress P t u ok m) :
    Progress P s u ok (n + m) := by
  obtain ⟨a1, a2, a3, a4, a5, a6, d, d1, d2, d3, d4, d5⟩ := h1
  obtain ⟨b1, b2, b3, b4, b5, b6, e, e1, e2, e3, e4, e5⟩ := h2
  refine ⟨b1.trans a1, b2.trans a2, b3.trans a3, b4.trans a4, b5.trans a5, b6.trans a6, d ++ e, ?_, ?_, ?_, ?_, ?_⟩
  · rw [e1, d1, List.append_assoc]
  · simp; omega
  · intro h a ha
    rcases List.mem_append.1 ha with ha | ha
    · exact d3 rfl a ha
    · exact e3 h a ha
  · intro h
    obtain ⟨pre, last, rfl, h1, h2⟩ := e4 h
    refine ⟨d ++ pre, last, by simp, ?_, h2⟩
    intro a ha
    rcases List.mem_append.1 ha with ha | ha
    · exact d3 rfl a ha
    · exact h1 a ha
  · intro a ha
    rcases List.mem_append.1 ha with ha | ha
    · exact d5 a ha
    · exact e5 a ha

/-- A looser bound. -/
theorem Progress.mono {P s t ok n m} (h : Progress P s t ok n) (hl : n ≤ m) : Progress P s t ok m := by
  obtain ⟨a1, a2, a3, a4, a5, a6, d, d1, d2, d3, d4, d5⟩ := h
  exact ⟨a1, a2, a3, a4, a5, a6, d, d1, by omega, d3, d4, d5⟩

/-- One write. -/
theorem progress_i2cWrite (P : Action → Prop) (bytes) (s : State) (hP : ∀ ok, P (.write s.cfg.i2cAddr bytes ok)) :
    Progress P s (i2cWrite bytes s).2 (i2cWrite bytes s).1 1 := by
  rcases EnvAnswer.ok_or_fail s.env.answer with ⟨x, y, h⟩ | ⟨k, h⟩
  · rw [i2cWrite_ok h]
    exact ⟨by simp, by simp, by simp, by simp, by simp, by simp, [_], by simp; rfl, by simp,
      fun _ a ha => by simp at ha; subst ha; rfl, by simp, fun a ha => by simp at ha; subst ha; exact hP _⟩
  · rw [i2cWrite_fail h]
    refine ⟨by simp, by simp, by simp, by simp, by simp, by simp, [_], by simp; rfl, by simp, by simp,
      fun _ => ⟨[], _, rfl, by simp, rfl⟩, by simp [hP]⟩

/-- What is known of the controller does not matter here. -/
theorem Progress.setController {P s t ok n} (c) (h : Progress P s t ok n) :
    Progress P s (t.setController c) ok n := by
  obtain ⟨a1, a2, a3, a4, a5, a6, d, d1, d2, d3, d4, d5⟩ := h
  exact ⟨a1, a2, a3, a4, a5, a6, d, d1, by omega, d3, d4, d5⟩

/-- One write of strobe pairs. -/
theorem progress_strobedWrite (P : Action → Prop) (reach) (bytes) (s : State)
    (hP : ∀ ok, P (.write s.cfg.i2cAddr bytes ok)) :
    Progress P s (strobedWrite reach bytes s).2 (strobedWrite reach bytes s).1 1 := by
  have h := progress_i2cWrite P bytes s hP
  unfold strobedWrite
  rcases hh : i2cWrite bytes s with ⟨b, t⟩
  rw [hh] at h
  cases b
  · exact h.setController _
  · cases reach
    · exact h
    · exact h.setController _

/-- One read transaction. -/
theorem progress_readTransaction (P : Action → Prop) (ops) (s : State)
    (hP : ∀ o, legalSamples o = true → P (.transaction s.cfg.i2cAddr ops o)) :
    Progress P s (readTransaction ops s).2 (readTransaction ops s).1.isSome 1 := by
  rcases EnvAnswer.ok_or_fail s.env.answer with ⟨x, y, h⟩ | ⟨k, h⟩
  · rw [readTransaction_ok h]
    exact ⟨by simp, by simp, by simp, by simp, by simp, by simp, [_], by simp; rfl, by simp,
      fun _ a ha => by simp at ha; subst ha; rfl, by simp, fun a ha => by simp at ha; subst ha; exact hP _ rfl⟩
  · rw [readTransaction_fail h]
    refine ⟨by simp, by simp, by simp, by simp, by simp, by simp, [_], by simp; rfl, by simp, by simp,
      fun _ => ⟨[], _, rfl, by simp, rfl⟩, fun a ha => by simp at ha; subst ha; exact hP _ rfl⟩

/-- One delay request. -/
theorem progress_delayUs (P : Action → Prop) (us) (s : State) (hP : P (.delay us)) :
    Progress P s (delayUs us s) true 1 :=
  ⟨rfl, rfl, rfl, rfl, rfl, rfl, [_], rfl, by simp, by simp [Action.failed], by simp, by simpa using hP⟩

/-- Going on after `ok`, stopping after `fail`. -/
theorem progress_orRaise {P s r f n m} (h : Progress P s r.2 r.1 n)
    (hf : ∀ t, r = (true, t) → Progress P t (f t).2 (f t).1 m) :
    Progress P s (orRaise r f).2 (orRaise r f).1 (n + m) := by
  rcases r with ⟨b, t⟩
  cases b
  · exact h.mono (by omega)
  · exact Progress.trans h (hf t rfl)

/-- The handshake of INITIALIZE. -/
theorem progress_initHandshake (P : Action → Prop) (l f) (s : State)
  (h1 : ∀ ok, P (.write s.cfg.i2cAddr (initHalfFrame s.cfg s.bl) ok))
  (h2 : ∀ ok, P (.write s.cfg.i2cAddr (initFinalFrame s.cfg s.bl l f) ok)) (h3 : ∀ u, P (.delay u)) :
  Progress P s (initHandshake l f s).2 (initHandshake l f s).1 6 := by
  unfold initHandshake
  have a1 := progress_strobedWrite P (some .unknown) (initHalfFrame s.cfg s.bl) s h1
  refine progress_orRaise (n := 1) (m := 5) a1 ?_
  intro s1 e1
  rw [e1] at a1
  have a2 := (progress_delayUs P 4100#32 s1 (h3 _))
  refine Progress.trans (n := 1) (m := 4) a2 ?_
  have b2 := progress_strobedWrite P (some .unknown) (initHalfFrame s.cfg s.bl) (delayUs 4100#32 s1)
    (by rw [a2.cfg, a1.cfg]; exact h1)
  refine progress_orRaise (n := 1) (m := 3) b2 ?_
  intro s2 e2
  rw [e2] at b2
  have a3 := (progress_delayUs P 100#32 s2 (h3 _))
  refine Progress.trans (n := 1) (m := 2) a3 ?_
  have c2 := progress_strobedWrite P (some .eightBit) (initHalfFrame s.cfg s.bl) (delayUs 100#32 s2)
    (by rw [a3.cfg, b2.cfg, a2.cfg, a1.cfg]; exact h1)
  refine progress_orRaise (n := 1) (m := 1) c2 ?_
  intro s3 e3
  rw [e3] at c2
  exact progress_strobedWrite P _ _ s3 (by rw [c2.cfg, a3.cfg, b2.cfg, a2.cfg, a1.cfg]; exact h2)

/-- The loop of SEND_BYTES. -/
theorem progress_sendFrames (P : Action → Prop) (rs) (bytes) (s : State)
  (h1 : ∀ ok b, P (.write s.cfg.i2cAddr (sendFrameBytes s.cfg s.bl rs b) ok)) :
  Progress P s (sendFrames rs bytes s).2 (sendFrames rs bytes s).1 bytes.length := by
  induction bytes generalizing s with
  | nil => exact Progress.refl ..
  | cons b bs ih =>
    have a := progress_strobedWrite P none (sendFrameBytes s.cfg s.bl rs b) s (fun ok => h1 ok b)
    rw [List.length_cons, Nat.add_comm]
    refine progress_orRaise a ?_
    intro t e
    have e' : strobedWrite none (sendFrameBytes s.cfg s.bl rs b) s = (true, t) := e
    rw [e'] at a
    exact ih t (by rw [a.cfg, a.bl]; exact h1)

/-- The loop of RECEIVE_BYTES. -/
theorem progress_receiveMany (P : Action → Prop) (rs) (n) (s : State)
  (h1 : ∀ o, legalSamples o = true → P (.transaction s.cfg.i2cAddr (readOps s.cfg s.bl rs) o)) :
  Progress P s (receiveMany rs n s).2.2 (receiveMany rs n s).1 n := by
  induction n generalizing s with
  | zero => exact Progress.refl ..
  | succ n ih =>
    have a := progress_readTransaction P (readOps s.cfg s.bl rs) s h1
    unfold receiveMany receiveOne
    rcases e : readTransaction (readOps s.cfg s.bl rs) s with ⟨o, t⟩
    rw [e] at a
    cases o with
    | none => exact a.mono (by omega)
    | some v =>
      have := Progress.trans a (ih t (by rw [a.cfg, a.bl]; exact h1))
      rw [Nat.add_comm]
      exact this

/-- The backlight flag an instruction leaves. -/
def blAfter (i : Instr) (s : State) : Bool :=
  match i with
  | .setBacklight on => on
  | _ => s.bl

/-- Everything an instruction can do to the state but for the wires: the configuration, the sequencer and the host's
requests stay, `BL` is as `blAfter` says, only INITIALIZE writes `INITIALIZED`, the trace gains at most `actionBound i`
actions, each of them `P`, and an operation gives one answer, which says whether its last action failed. -/
structure Effect (P : Action → Prop) (i : Instr) (s t : State) : Prop where
  cfg : t.cfg = s.cfg
  seq : t.seq = s.seq
  req : t.requests = s.requests
  bl : t.bl = blAfter i s
  ini : (∀ l f, i ≠ .initialise l f) → t.initialized = s.initialized
  tr : ∃ added, t.trace = s.trace ++ added ∧ added.length ≤ actionBound i ∧ (∀ a ∈ added, P a) ∧
    (i.isOperation = true → ∃ r : Response, t.results = s.results ++ [r] ∧
       ((r.status = .ok ∧ ∀ a ∈ added, a.failed = false) ∨
         (r.status = .transportError ∧
           ∃ pre last, added = pre ++ [last] ∧ (∀ a ∈ pre, a.failed = false) ∧ last.failed = true)) ∧
       (∀ l f, i = .initialise l f → t.initialized = decide (r.status = .ok))) ∧
    (i.isOperation = false → t.results = s.results)

/-- An operation without a value. -/
theorem effect_finish {P s r n i} (h : Progress P s r.2 r.1 n) (hn : n ≤ actionBound i)
    (hbl : s.bl = blAfter i s) (hi : i.isOperation = true) (hni : ∀ l f, i ≠ .initialise l f) :
    Effect P i s (finish r) := by
  rcases r with ⟨b, t⟩
  obtain ⟨a1, a2, a3, a4, a5, a6, d, d1, d2, d3, d4, d5⟩ := h
  cases b
  · refine ⟨a1, a4, a5, a2.trans hbl, fun _ => a3, d, d1, by simp at *; omega, d5,
      fun _ => ⟨⟨.transportError, []⟩, by simp only [finish_false, State.raiseTransportError_results]; rw [a6],
        .inr ⟨rfl, d4 rfl⟩,
      fun l f e => absurd e (hni l f)⟩, by simp [hi]⟩
  · refine ⟨a1, a4, a5, a2.trans hbl, fun _ => a3, d, d1, by simp at *; omega, d5, fun _ => ⟨⟨.ok, []⟩,
      by simp only [finish_true, State.answerOk_results]; rw [a6], .inl ⟨rfl, d3 rfl⟩,
      fun l f e => absurd e (hni l f)⟩, by simp [hi]⟩

/-- What every instruction does, for any property `P` of the actions it can issue. -/
theorem exec_effect_of (P : Action → Prop) (i : Instr) (s : State) (bl' : Bool) (hbl : bl' = blAfter i s)
  (h1 : ∀ ok, (∃ l f, i = .initialise l f) → P (.write s.cfg.i2cAddr (initHalfFrame s.cfg bl') ok))
  (h2 : ∀ l f ok, i = .initialise l f → P (.write s.cfg.i2cAddr (initFinalFrame s.cfg bl' l f) ok))
  (h3 : ∀ u, P (.delay u))
  (h4 : ∀ rs b ok, P (.write s.cfg.i2cAddr (sendFrameBytes s.cfg bl' rs b) ok))
  (h5 : ∀ rs o, ((i = .receiveByte rs) ∨ ∃ n, i = .receiveBytes rs n) → legalSamples o = true →
    P (.transaction s.cfg.i2cAddr (readOps s.cfg bl' rs) o))
  (h6 : ∀ ok, P (.write s.cfg.i2cAddr [idlePortByte s.cfg.pinMap bl'] ok)) :
  ∃ t, exec i s = .next t ∧ Effect P i s t := by
  cases i with
  | encode rs rnw b d =>
    exact ⟨_, rfl, rfl, rfl, rfl, rfl, fun _ => rfl, [], by simp, by simp, by simp, fun _ => ⟨_, rfl, .inl ⟨rfl,
      by simp⟩, by simp⟩, by simp [Instr.isOperation]⟩
  | decode a b =>
    exact ⟨_, rfl, rfl, rfl, rfl, rfl, fun _ => rfl, [], by simp, by simp, by simp, fun _ => ⟨_, rfl, .inl ⟨rfl,
      by simp⟩, by simp⟩, by simp [Instr.isOperation]⟩
  | initialise l f =>
    have hb : bl' = s.bl := hbl
    subst hb
    refine ⟨_, rfl, ?_⟩
    have r := progress_initHandshake P l f (s.setInitialized false) (fun ok => h1 ok ⟨l, f, rfl⟩)
      (fun ok => h2 l f ok rfl) h3
    rcases e : initHandshake l f (s.setInitialized false) with ⟨b, t⟩
    rw [e] at r
    obtain ⟨a1, a2, a3, a4, a5, a6, d, d1, d2, d3, d4, d5⟩ := r
    cases b
    · refine ⟨a1, a4, a5, a2, by simp, d, d1, d2, d5, fun _ => ⟨⟨.transportError, []⟩, by simp at a6; simp [a6],
        .inr ⟨rfl, d4 rfl⟩, fun l f e => a3⟩, by simp [Instr.isOperation]⟩
    · refine ⟨a1, a4, a5, a2, by simp, d, d1, d2, d5, fun _ => ⟨⟨.ok, []⟩, by simp at a6; simp [a6], .inl ⟨rfl,
        d3 rfl⟩, fun l f e => rfl⟩, by simp [Instr.isOperation]⟩
  | sendByte rs d =>
    have hb : bl' = s.bl := hbl
    subst hb
    refine ⟨_, rfl, effect_finish (progress_strobedWrite P none _ s (h4 rs d)) (Nat.le_refl 1) rfl rfl (by simp)⟩
  | sendBytes rs n bs =>
    have hb : bl' = s.bl := hbl
    subst hb
    refine ⟨_, rfl, effect_finish (progress_sendFrames P rs (bs.take n) s (fun ok b => h4 rs b ok))
      (by simp [actionBound]) rfl rfl (by simp)⟩
  | receiveByte rs =>
    have hb : bl' = s.bl := hbl
    subst hb
    refine ⟨_, rfl, ?_⟩
    have r := progress_readTransaction P (readOps s.cfg s.bl rs) s (fun o => h5 rs o (.inl rfl))
    unfold receiveOne
    rcases e : readTransaction (readOps s.cfg s.bl rs) s with ⟨o, t⟩
    rw [e] at r
    obtain ⟨a1, a2, a3, a4, a5, a6, d, d1, d2, d3, d4, d5⟩ := r
    cases o
    · refine ⟨a1, a4, a5, a2, fun _ => a3, d, d1, d2, d5, fun _ => ⟨⟨.transportError, []⟩,
        by simp at a6; simp [a6], .inr ⟨rfl, d4 rfl⟩, by simp⟩, by simp [Instr.isOperation]⟩
    · refine ⟨a1, a4, a5, a2, fun _ => a3, d, d1, d2, d5, fun _ => ⟨⟨.ok, _⟩, by simp at a6; simp [a6]; rfl,
        .inl ⟨rfl, d3 rfl⟩, by simp⟩, by simp [Instr.isOperation]⟩
  | receiveBytes rs n =>
    have hb : bl' = s.bl := hbl
    subst hb
    refine ⟨_, rfl, ?_⟩
    have r := progress_receiveMany P rs n s (fun o => h5 rs o (.inr ⟨n, rfl⟩))
    rcases e : receiveMany rs n s with ⟨b, vs, t⟩
    rw [e] at r
    obtain ⟨a1, a2, a3, a4, a5, a6, d, d1, d2, d3, d4, d5⟩ := r
    cases b
    · refine ⟨a1, a4, a5, a2, fun _ => a3, d, d1, d2, d5, fun _ => ⟨⟨.transportError, _⟩,
        by simp at a6; simp [a6]; rfl, .inr ⟨rfl, d4 rfl⟩, by simp⟩, by simp [Instr.isOperation]⟩
    · refine ⟨a1, a4, a5, a2, fun _ => a3, d, d1, d2, d5, fun _ => ⟨⟨.ok, _⟩, by simp at a6; simp [a6]; rfl,
        .inl ⟨rfl, d3 rfl⟩, by simp⟩, by simp [Instr.isOperation]⟩
  | setBacklight on =>
    have hb : bl' = on := hbl
    subst hb
    refine ⟨_, rfl, ?_⟩
    have := effect_finish (i := .setBacklight bl')
      (progress_i2cWrite P [idlePortByte s.cfg.pinMap bl'] (s.setBl bl') h6) (Nat.le_refl 1) rfl rfl (by simp)
    obtain ⟨a1, a2, a3, a4, a5, a6⟩ := this
    exact ⟨a1, a2, a3, a4, a5, a6⟩
  | delay us =>
    exact ⟨_, rfl, rfl, rfl, rfl, rfl, fun _ => rfl, [.delay us], rfl, by simp [actionBound], by simp [h3],
      fun _ => ⟨_, rfl, .inl ⟨rfl, by simp [Action.failed]⟩, by simp⟩, by simp [Instr.isOperation]⟩
  | strobeHighByte a b c n =>
    exact ⟨_, rfl, rfl, rfl, rfl, rfl, fun _ => rfl, [], by simp, by simp, by simp, by simp [Instr.isOperation],
      fun _ => rfl⟩
  | strobeLowByte a b c n =>
    exact ⟨_, rfl, rfl, rfl, rfl, rfl, fun _ => rfl, [], by simp, by simp, by simp, by simp [Instr.isOperation],
      fun _ => rfl⟩
  | idleByte b =>
    exact ⟨_, rfl, rfl, rfl, rfl, rfl, fun _ => rfl, [], by simp, by simp, by simp, by simp [Instr.isOperation],
      fun _ => rfl⟩

/-- What an instruction has done, if it answered a next state. -/
theorem exec_effect (i : Instr) (s : State) {t : State} (h : exec i s = .next t) :
    Effect (fun _ => True) i s t := by
  obtain ⟨u, hu, h'⟩ :=
    exec_effect_of (fun _ => True) i s _ rfl (by simp) (by simp) (by simp) (by simp) (by simp) (by simp)
  rw [h] at hu; cases hu; exact h'

end Sys2Proof.Machine
end

