-- ==== Sys2Proof/Laws/Instance.lean ====
section
/-! SUPPORT. The machine of one configuration: construction, the fields of a session under a configuration, one step of it from one
step of the machine, and a run step by step. -/

namespace Sys2Proof.Machine

@[simp] theorem Session.under_cfg (p : Params) (s : Session) : (s.under p).cfg = p := rfl
@[simp] theorem Session.under_toSession (p : Params) (s : Session) : (s.under p).toSession = s := rfl
@[simp] theorem State.under_toSession (s : State) : s.toSession.under s.cfg = s := rfl

@[simp] theorem outcomeUnder_next (p : Params) (s : Session) : outcomeUnder p (.next s) = .next (s.under p) := rfl
@[simp] theorem outcomeUnder_fault (p : Params) (r : Fault) : outcomeUnder p (.fault r) = .fault r := rfl
@[simp] theorem outcomeUnder_refused (p : Params) (r : Refusal) : outcomeUnder p (.refused r) = .refused r := rfl

/-- Construction with a valid configuration. -/
theorem construct_of_wf {p : Params} (valid : p.wf = true) : State.construct p = some (State.init p valid) :=
  dif_pos valid

/-- Construction with an invalid configuration. -/
theorem construct_of_not_wf {p : Params} (invalid : ¬ p.wf = true) : State.construct p = none := dif_neg invalid

/-- Where a step keeps the configuration, the step of the machine of `p` is that step. -/
theorem outcomeUnder_sessionStep (p : Params) (s : Session) (h : ∀ t, step (s.under p) = .next t → t.cfg = p) :
    outcomeUnder p (sessionStep p s) = step (s.under p) := by
  unfold sessionStep
  rcases e : step (s.under p) with t | r | r
  · obtain rfl := h t e
    rfl
  · rfl
  · rfl

/-- A run whose first step gives a next state. -/
theorem run_of_next (M : Host.Core) {k : Nat} {s t : M.State} (h : M.step s = .next t) :
    M.run (k + 1) s = M.run k t := by
  simp only [Host.Core.run, h]

/-- A run whose first step is a fault. -/
theorem run_of_fault (M : Host.Core) {k : Nat} {s : M.State} {r : M.Fault} (h : M.step s = .fault r) :
    M.run (k + 1) s = .fault r := by
  simp only [Host.Core.run, h]

/-- A run whose first step is a refusal. -/
theorem run_of_refused (M : Host.Core) {k : Nat} {s : M.State} {r : M.Refusal} (h : M.step s = .refused r) :
    M.run (k + 1) s = .refused r := by
  simp only [Host.Core.run, h]

end Sys2Proof.Machine
end

