-- ==== Sys2Proof/Laws/Layer.lean ====
section
/-! SUPPORT. The small lemmas of a glyph's row bytes, and of what strobes mean to the controller. -/

namespace Sys2Proof.Machine

@[simp] theorem glyphRowByte_low (rest : BitVec 3) (row : BitVec 5) : (glyphRowByte rest row).extractLsb' 0 5 = row := by
  revert rest row
  decide

@[simp] theorem glyphRowBytes_nil (k : Nat) : glyphRowBytes k [] = [] := rfl

@[simp] theorem glyphRowBytes_cons (k : Nat) (row : BitVec 5) (rows : List (BitVec 5)) :
    glyphRowBytes k (row :: rows) = glyphRowByte (Config.freeGlyphBits k) row :: glyphRowBytes (k + 1) rows := rfl

@[simp] theorem length_glyphRowBytes (k : Nat) (rows : List (BitVec 5)) : (glyphRowBytes k rows).length = rows.length := by
  induction rows generalizing k with
  | nil => rfl
  | cons row rows ih => simp [ih]

@[simp] theorem transferOf_commandWrite : transferOf false false = .commandWrite := rfl
@[simp] theorem transferOf_characterWrite : transferOf true false = .characterWrite := rfl
@[simp] theorem transferOf_statusRead : transferOf false true = .statusRead := rfl
@[simp] theorem transferOf_dataRead : transferOf true true = .dataRead := rfl

@[simp] theorem ControllerBus.isFourBit_strobe (c : ControllerBus) : c.strobe.isFourBit = c.isFourBit := by
  rcases c with _ | _ | _ | _ <;> rfl

end Sys2Proof.Machine
end

