-- ==== Sys2Proof/Laws/PerInstr.lean ====
section
/-! SUPPORT. Statements made per instruction. `OpCode`: an encoded operation carries its op code of
spec/30_encoding.md R86, and an encoded port byte carries none. -/

namespace Sys2Proof.Laws

/-- The encoder puts the instruction's own op code, or none, on the request, whatever the PinMap. -/
def OpCode.Statement (i : Instr) : Prop := ∀ m : PinMap, (Sys2Proof.encode m i).opCode = i.opCode

theorem OpCode.encode (rs rnw bl : Bool) (data : Byte) : OpCode.Statement (.encode rs rnw bl data) := fun _ => rfl

theorem OpCode.decode (sample0 sample1 : Byte) : OpCode.Statement (.decode sample0 sample1) := fun _ => rfl

theorem OpCode.initialise (lineMode fontMode : Bool) : OpCode.Statement (.initialise lineMode fontMode) :=
  fun _ => rfl

theorem OpCode.sendByte (rs : Bool) (data : Byte) : OpCode.Statement (.sendByte rs data) := fun _ => rfl

theorem OpCode.sendBytes (rs : Bool) (n : Nat) (bytes : List Byte) : OpCode.Statement (.sendBytes rs n bytes) :=
  fun _ => rfl

theorem OpCode.receiveByte (rs : Bool) : OpCode.Statement (.receiveByte rs) := fun _ => rfl

theorem OpCode.receiveBytes (rs : Bool) (n : Nat) : OpCode.Statement (.receiveBytes rs n) := fun _ => rfl

theorem OpCode.setBacklight (on : Bool) : OpCode.Statement (.setBacklight on) := fun _ => rfl

theorem OpCode.delay (us : Microseconds) : OpCode.Statement (.delay us) := fun _ => rfl

theorem OpCode.strobeHighByte (rs rnw bl : Bool) (nibble : Nibble) :
    OpCode.Statement (.strobeHighByte rs rnw bl nibble) := fun _ => rfl

theorem OpCode.strobeLowByte (rs rnw bl : Bool) (nibble : Nibble) :
    OpCode.Statement (.strobeLowByte rs rnw bl nibble) := fun _ => rfl

theorem OpCode.idleByte (bl : Bool) : OpCode.Statement (.idleByte bl) := fun _ => rfl

end Sys2Proof.Laws
end

