-- ==== Sys2Proof/Laws/Roles.lean ====
section
/-! SUPPORT. What a valid PinMap gives (spec/10_state.md R25): each role has a position of its own, so every role can be
read back from a port byte, and a frame on the port is two strobes. -/

namespace Sys2Proof.Machine

/-- Two roles never share a position. -/
theorem PinMap.pos_injective {m : PinMap} (h : m.wf = true) (r r' : Role) (e : m.pos r = m.pos r') : r = r' := by
  have hn : m.positions.Nodup := by simpa [PinMap.wf] using h
  simp only [PinMap.positions, List.nodup_cons, List.mem_cons, List.not_mem_nil, not_or, or_false, not_false_eq_true,
    List.nodup_nil, and_true] at hn
  cases r <;> cases r' <;> simp only [PinMap.pos] at e <;> simp_all

/-- Every position carries a role. -/
theorem PinMap.exists_role {m : PinMap} (h : m.wf = true) (q : Fin 8) : ∃ r, m.pos r = q := by
  have hn : m.positions.Nodup := by simpa [PinMap.wf] using h
  have hu : m.positions.toFinset = Finset.univ :=
    Finset.eq_univ_of_card _ (by rw [List.toFinset_card_of_nodup hn]; rfl)
  have hq : q ∈ m.positions := by simpa [← hu] using Finset.mem_univ q
  simp only [PinMap.positions, List.mem_cons, List.not_mem_nil, or_false] at hq
  rcases hq with rfl | rfl | rfl | rfl | rfl | rfl | rfl | rfl
  exacts [⟨.rs, rfl⟩, ⟨.rnw, rfl⟩, ⟨.en, rfl⟩, ⟨.bl, rfl⟩, ⟨.d4, rfl⟩, ⟨.d5, rfl⟩, ⟨.d6, rfl⟩, ⟨.d7, rfl⟩]

/-- The value a role has in a marshalled byte. -/
def roleValue (rs rnw en bl : Bool) (n : Nibble) : Role → Bool
  | .rs => rs
  | .rnw => rnw
  | .en => en
  | .bl => bl
  | .d4 => n.getLsbD 0
  | .d5 => n.getLsbD 1
  | .d6 => n.getLsbD 2
  | .d7 => n.getLsbD 3

/-- Every role reads back from a port byte. -/
theorem roleBit_port {m : PinMap} (h : m.wf = true) (rs rnw en bl : Bool) (n : Nibble) (r : Role) :
    roleBit m r (port m rs rnw en bl n) = roleValue rs rnw en bl n r := by
  have key : ∀ r', decide (m.pos r = m.pos r') = decide (r = r') := fun r' =>
    decide_eq_decide.2 ⟨PinMap.pos_injective h r r', fun e => e ▸ rfl⟩
  have hp := port_getLsbD m rs rnw en bl n (m.pos r)
  rw [show decide (m.pos r = m.rs) = _ from key .rs, show decide (m.pos r = m.rnw) = _ from key .rnw,
    show decide (m.pos r = m.en) = _ from key .en, show decide (m.pos r = m.bl) = _ from key .bl,
    show decide (m.pos r = m.d4) = _ from key .d4, show decide (m.pos r = m.d5) = _ from key .d5,
    show decide (m.pos r = m.d6) = _ from key .d6, show decide (m.pos r = m.d7) = _ from key .d7] at hp
  rw [roleBit, hp]
  cases r <;> simp [roleValue]

/-- The nibble reads back from a port byte. -/
theorem nib_port {m : PinMap} (h : m.wf = true) (rs rnw en bl : Bool) (n : Nibble) :
    nib m (port m rs rnw en bl n) = n := by
  obtain ⟨h0, h1, h2, h3⟩ := nib_getLsbD m (port m rs rnw en bl n)
  simp only [roleBit_port h, roleValue] at h0 h1 h2 h3
  apply BitVec.eq_of_getLsbD_eq
  intro i hi
  match i, hi with
  | 0, _ => exact h0
  | 1, _ => exact h1
  | 2, _ => exact h2
  | 3, _ => exact h3

/-- Two bytes with the same roles are the same byte. -/
theorem byte_ext_roles {m : PinMap} (h : m.wf = true) {a b : Byte} (e : ∀ r, roleBit m r a = roleBit m r b) : a = b :=
  byte_ext fun q => by obtain ⟨r, rfl⟩ := PinMap.exists_role h q; exact e r

/-- The idle byte is the backlight bit alone. -/
theorem idlePortByte_eq (m : PinMap) (on : Bool) : idlePortByte m on = bitAt m.bl on := by
  simp [idlePortByte, port, bitAt]

/-- Two strobes bring the nibble phase back. -/
@[simp] theorem ControllerBus.strobe_strobe (c : ControllerBus) : c.strobe.strobe = c := by
  cases c with
  | unknown => rfl
  | eightBit => rfl
  | fourBit half => cases half <;> rfl

/-- A byte with EN high followed by one with EN low is a strobe. -/
theorem driveAll_strobe {m : PinMap} {s : State} (hm : s.cfg.pinMap = m) {a b : Byte} (bs : List Byte)
    (ha : roleBit m .en a = true) (hb : roleBit m .en b = false) :
    s.driveAll (a :: b :: bs) =
      State.driveAll bs { s with
        port := b
        strobes := s.strobes ++ [⟨a, b⟩]
        controller := s.controller.strobe } := by
  subst hm
  simp only [driveAll_cons]
  congr 1
  simp [State.drive, enableFalls, ha, hb]

/-- A full frame on the port: two strobes, the same nibble phase, and the port at the last byte. -/
theorem driveAll_encodeFrame {s : State} (h : s.cfg.pinMap.wf = true) (rs rnw bl : Bool) (data : Byte)
    (bs : List Byte) :
    s.driveAll (encodeFrame s.cfg.pinMap rs rnw bl data ++ bs) =
      State.driveAll bs { s with
        port := port s.cfg.pinMap rs rnw false bl (loNibble data)
        strobes := s.strobes ++ frameStrobes s.cfg.pinMap rs rnw bl data } := by
  simp only [encodeFrame, List.cons_append, List.nil_append]
  rw [driveAll_strobe (m := s.cfg.pinMap) (by rfl) _ (roleBit_port h ..) (roleBit_port h ..),
    driveAll_strobe (m := s.cfg.pinMap) (by rfl) _ (roleBit_port h ..) (roleBit_port h ..)]
  congr 1
  simp [frameStrobes]

/-- The written bytes of a read transaction on the port: two strobes, the same nibble phase, and EN low. -/
theorem driveAll_readOps {s : State} (h : s.cfg.pinMap.wf = true) (bl rs : Bool) (bs : List Byte) :
    s.driveAll (writtenBytes (readOps s.cfg bl rs) ++ bs) =
      State.driveAll bs { s with
        port := port s.cfg.pinMap rs true false bl (hiNibble s.cfg.readPrimeData)
        strobes := s.strobes ++ readStrobes s.cfg bl rs } := by
  have e : writtenBytes (readOps s.cfg bl rs) ++ bs =
      port s.cfg.pinMap rs true true bl (loNibble s.cfg.readPrimeData) ::
      port s.cfg.pinMap rs true false bl (hiNibble s.cfg.readPrimeData) ::
      port s.cfg.pinMap rs true true bl (loNibble s.cfg.readPrimeData) ::
      port s.cfg.pinMap rs true false bl (hiNibble s.cfg.readPrimeData) :: bs := rfl
  rw [e, driveAll_strobe (m := s.cfg.pinMap) (by rfl) _ (roleBit_port h ..) (roleBit_port h ..),
    driveAll_strobe (m := s.cfg.pinMap) (by rfl) _ (roleBit_port h ..) (roleBit_port h ..)]
  congr 1
  simp [readStrobes]

end Sys2Proof.Machine
end

