-- ==== Sys2Proof/Tests/Slice0.lean ====
section
/-! SUPPORT. Tests of the model on fixed values, from the vectors of spec/95_test_vectors.md and hand calculation from the
rules named, and for every statement with hypotheses a state and operands that meet them. -/

namespace Sys2Proof.Machine

/-- The made-up maps of the spec's vectors. -/
def mapSwp : PinMap := ⟨4, 5, 6, 7, 0, 1, 2, 3⟩

def mapScr : PinMap := ⟨7, 0, 5, 2, 6, 1, 3, 4⟩

/-- A state with the default parameters, a given map, session state and answers, and EN low on the port. -/
def testState (m : PinMap) (bl initialized : Bool) (script : List EnvAnswer) : State :=
  { State.reset with
    cfg := { Config.defaults 0x27#7 bl with pinMap := m }
    bl := bl
    initialized := initialized
    env := ⟨script, 0⟩
    port := 0#8 }

/-- An answer to a write. -/
def okAns : EnvAnswer := .ok 0#8 0#8

/-- The trace entries of the vectors, for the address of `testState`. -/
def actW (bytes : List Byte) : Action := .write 0x27#7 bytes true

def actWFail (bytes : List Byte) : Action := .write 0x27#7 bytes false

def actT (ops : List BusOp) (s0 s1 : Byte) : Action := .transaction 0x27#7 ops (some [[s0], [s1]])

/-- What the vectors say of a run: trace, results, `BL`, `INITIALIZED`. -/
def seen : Host.Outcome State Fault Refusal → Option (List Action × List Response × Bool × Bool)
  | .next s => some (s.trace, s.results, s.bl, s.initialized)
  | .fault _ => none
  | .refused _ => none

/-! ### Well-formedness -/

/-- R82: three announced, two presented. -/
theorem test_wf_refuses_operand_count : (Instr.sendBytes true 3 [0x48#8, 0x69#8]).wf = false := by decide

theorem test_wf_accepts_operand_count : (Instr.sendBytes true 2 [0x48#8, 0x69#8]).wf = true := by decide

/-- V-E44: two roles at one position, and a position out of range. -/
theorem test_pinmap_refused :
    PinMap.ofPositions [0, 1, 2, 3, 4, 5, 6, 6] = none ∧ PinMap.ofPositions [0, 1, 2, 3, 4, 5, 6, 8] = none := by
  decide

theorem test_pinmap_scr : PinMap.ofPositions [7, 0, 5, 2, 6, 1, 3, 4] = some mapScr := by decide

/-- R25: two roles at one position. -/
theorem test_params_refuse_map :
    ({ Config.defaults 0#7 false with pinMap := ⟨0, 1, 2, 3, 4, 5, 6, 6⟩ } : Params).wf = false := by
  decide

/-- R9: the conventional policy forces the default map. -/
theorem test_params_refuse_policy :
    ({ Config.defaults 0#7 false with pinMap := mapScr, policy := .conventional } : Params).wf = false := by decide

/-- R14, R42: a write is not empty, and the frame has four bytes. -/
theorem test_params_refuse_length :
    ({ Config.defaults 0#7 false with initFinalLen := 0 } : Params).wf = false ∧
      ({ Config.defaults 0#7 false with initFinalLen := 5 } : Params).wf = false := by decide

/-- R183: no instance. -/
theorem test_construct_refused :
    State.construct { Config.defaults 0#7 false with pinMap := ⟨0, 1, 2, 3, 4, 5, 6, 6⟩ } = none := by decide

/-! ### Decoding, every constructor, from words written out -/

/-- R86: op codes 0 to 8, with the operand fields of R91's examples. -/
theorem test_decode_encode :
    decode mapScr (.command { HostCommand.blank 0b0000#4 with rs := false, rnw := true, bl := false, data := 0xA5#8 }) =
      .ok (.encode false true false 0xA5#8) := by decide

theorem test_decode_decode :
    decode mapScr (.command { HostCommand.blank 0b0001#4 with sample0 := 0xA4#8, sample1 := 0x54#8 }) =
      .ok (.decode 0xA4#8 0x54#8) := by decide

theorem test_decode_initialise :
    decode mapScr (.command { HostCommand.blank 0b0010#4 with lineMode := true }) = .ok (.initialise true false) := by
  decide

theorem test_decode_sendByte :
    decode mapScr (.command { HostCommand.blank 0b0011#4 with data := 0x41#8 }) = .ok (.sendByte false 0x41#8) := by
  decide

theorem test_decode_sendBytes :
    decode mapScr (.command { HostCommand.blank 0b0100#4 with rs := true, n := 2, bytes := [0x48#8, 0x69#8] }) =
      .ok (.sendBytes true 2 [0x48#8, 0x69#8]) := by decide

theorem test_decode_receiveByte :
    decode mapScr (.command (HostCommand.blank 0b0101#4)) = .ok (.receiveByte false) := by decide

theorem test_decode_receiveBytes :
    decode mapScr (.command { HostCommand.blank 0b0110#4 with rs := true, n := 3 }) = .ok (.receiveBytes true 3) := by
  decide

theorem test_decode_setBacklight :
    decode mapScr (.command { HostCommand.blank 0b0111#4 with on := true }) = .ok (.setBacklight true) := by decide

theorem test_decode_delay :
    decode mapScr (.command { HostCommand.blank 0b1000#4 with us := 1520#32 }) = .ok (.delay 1520#32) := by decide

/-- R73 under the default map: `dddd b1wr`, `dddd b0wr`, `0000 b000`. -/
theorem test_decode_strobeHighByte :
    decode PinMap.conventional (.portByte false 0b01101101#8) = .ok (.strobeHighByte true false true 0b0110#4) := by
  decide

theorem test_decode_strobeLowByte :
    decode PinMap.conventional (.portByte false 0b01101010#8) = .ok (.strobeLowByte false true true 0b0110#4) := by
  decide

theorem test_decode_idleByte :
    decode PinMap.conventional (.portByte true 0b00001000#8) = .ok (.idleByte true) := by decide

/-- R76: the same byte in a longer write is a strobe-low byte. -/
theorem test_decode_low_byte_in_frame :
    decode PinMap.conventional (.portByte false 0b00001000#8) = .ok (.strobeLowByte false false true 0#4) := by decide

/-- V-E45. -/
theorem test_decode_reserved : decode mapScr (.command (HostCommand.blank 9#4)) = .error (.reservedOpCode 9#4) := by
  decide

/-- The table's words: op codes, and a port byte of 16 or more. -/
theorem test_table_words :
    decodeTableWord 8 0x3 = some (.sendByte false 0#8) ∧
      decodeTableWord 8 0xA4 = some (.strobeHighByte false false false 0b1010#4) ∧
      decodeTableWord 8 0xA0 = some (.strobeLowByte false false false 0b1010#4) ∧ decodeTableWord 8 0xF = none := by
  decide

/-! ### The Encoder -/

/-- V-S11. -/
theorem test_port_weights :
    port PinMap.conventional true false false false 0#4 = 0x01#8 ∧
      port PinMap.conventional false true false false 0#4 = 0x02#8 ∧
      port PinMap.conventional false false true false 0#4 = 0x04#8 ∧
      port PinMap.conventional false false false true 0#4 = 0x08#8 ∧
      port PinMap.conventional false false false false 0b0001#4 = 0x10#8 ∧
      port PinMap.conventional false false false false 0b1000#4 = 0x80#8 := by decide

/-- V-E1 with `BL = 1` (V-E42). -/
theorem test_encode_default :
    seen (exec (.encode false false false 0xA5#8) (testState PinMap.conventional true false [])) =
      some ([], [⟨.ok, [0xA4#8, 0xA0#8, 0x54#8, 0x50#8]⟩], true, false) := by decide

/-- V-E27. -/
theorem test_encode_scr : encodeFrame mapScr true true true 0x3C#8 = [0xE7#8, 0xC7#8, 0xBD#8, 0x9D#8] := by decide

/-- V-E37, three maps. -/
theorem test_decode_operand_order :
    decodeData PinMap.conventional 0x0F#8 0xF0#8 = 0x0F#8 ∧ decodeData mapSwp 0x0F#8 0xF0#8 = 0xF0#8 ∧
      decodeData mapScr 0x0F#8 0xF0#8 = 0x69#8 := by decide

/-- V-E40, under SCR. -/
theorem test_decode_answer :
    seen (exec (.decode 0xB6#8 0xEC#8) (testState mapScr true true [])) = some ([], [⟨.ok, [0xA5#8]⟩], true, true) := by
  decide

/-! ### The Protocol Driver -/

/-- V-T1. -/
theorem test_initialise_ok :
    seen (exec (.initialise true false) (testState PinMap.conventional true false (List.replicate 4 okAns))) =
      some ([actW [0x3C#8, 0x38#8], .delay 4100#32, actW [0x3C#8, 0x38#8], .delay 100#32, actW [0x3C#8, 0x38#8],
        actW [0x2C#8, 0x28#8, 0x8C#8, 0x88#8]], [⟨.ok, []⟩], true, true) := by decide

/-- V-T13: `INITIALIZED` is cleared at entry. -/
theorem test_initialise_fails :
    seen (exec (.initialise true false) (testState PinMap.conventional true true [okAns, .fail 1])) =
      some ([actW [0x3C#8, 0x38#8], .delay 4100#32, actWFail [0x3C#8, 0x38#8]],
        [⟨.transportError, []⟩], true, false) := by
  decide

/-- V-T29. -/
theorem test_sendByte_scr :
    seen (exec (.sendByte true 0x48#8) (testState mapScr true true [okAns])) =
      some ([actW [0xAC#8, 0x8C#8, 0xB4#8, 0x94#8]], [⟨.ok, []⟩], true, true) := by decide

/-- V-T23. -/
theorem test_sendByte_fails :
    seen (exec (.sendByte true 0x41#8) (testState PinMap.conventional true true [.fail 0])) =
      some ([actWFail [0x4D#8, 0x49#8, 0x1D#8, 0x19#8]], [⟨.transportError, []⟩], true, true) := by decide

/-- V-T25. -/
theorem test_sendBytes_ok :
    seen (exec (.sendBytes true 2 [0x48#8, 0x69#8]) (testState PinMap.conventional true true [okAns, okAns])) =
      some ([actW [0x4D#8, 0x49#8, 0x8D#8, 0x89#8], actW [0x6D#8, 0x69#8, 0x9D#8, 0x99#8]],
        [⟨.ok, []⟩], true, true) := by
  decide

/-- V-T27. -/
theorem test_sendBytes_fails :
    seen (exec (.sendBytes true 3 [0x41#8, 0x42#8, 0x43#8])
      (testState PinMap.conventional false true [okAns, .fail 4])) =
      some ([actW [0x45#8, 0x41#8, 0x15#8, 0x11#8], actWFail [0x45#8, 0x41#8, 0x25#8, 0x21#8]],
        [⟨.transportError, []⟩], false, true) := by decide

/-- V-T35, under SWP. -/
theorem test_receiveByte_swp :
    seen (exec (.receiveByte false) (testState mapSwp true true [.ok 0xE8#8 0xA3#8])) =
      some ([actT [.write [0xEF#8], .read 1, .write [0xAF#8, 0xEF#8], .read 1, .write [0xAF#8]] 0xE8#8 0xA3#8],
        [⟨.ok, [0x83#8]⟩], true, true) := by decide

/-- V-T36: a priming payload with two different nibbles shows which byte each slice picks. -/
theorem test_read_slices :
    readOps { Config.defaults 0x27#7 false with readPrimeData := 0xF0#8 } false false =
      [.write [0x06#8], .read 1, .write [0xF2#8, 0x06#8], .read 1, .write [0xF2#8]] := by decide

/-- V-T38. -/
theorem test_receiveBytes_ok :
    seen (exec (.receiveBytes true 2) (testState PinMap.conventional false true [.ok 0x47#8 0x87#8, .ok 0x67#8 0x97#8])) =
      some ([actT [.write [0xF7#8], .read 1, .write [0xF3#8, 0xF7#8], .read 1, .write [0xF3#8]] 0x47#8 0x87#8,
        actT [.write [0xF7#8], .read 1, .write [0xF3#8, 0xF7#8], .read 1, .write [0xF3#8]] 0x67#8 0x97#8],
        [⟨.ok, [0x48#8, 0x69#8]⟩], false, true) := by decide

/-- V-T40: the answers alone. -/
theorem test_receiveBytes_fails :
    (seen (exec (.receiveBytes true 3) (testState PinMap.conventional false true [.ok 0x47#8 0x87#8, .fail 2]))).map
      (fun r => r.2.1) = some [⟨.transportError, [0x48#8]⟩] := by decide

/-- V-T55, under SCR. -/
theorem test_setBacklight_scr :
    seen (exec (.setBacklight true) (testState mapScr false false [okAns])) =
      some ([actW [0x04#8]], [⟨.ok, []⟩], true, false) := by decide

/-- V-T53. -/
theorem test_setBacklight_fails :
    seen (exec (.setBacklight true) (testState PinMap.conventional false true [.fail 0])) =
      some ([actWFail [0x08#8]], [⟨.transportError, []⟩], true, true) := by decide

/-- V-T58. -/
theorem test_delay_largest :
    seen (exec (.delay 4294967295#32) (testState PinMap.conventional false false [])) =
      some ([.delay 4294967295#32], [⟨.ok, []⟩], false, false) := by decide

/-! ### Port bytes -/

/-- R49, R51: the port and the strobes after one port byte. -/
def wires : Host.Outcome State Fault Refusal → Option (Byte × List Strobe)
  | .next s => some (s.port, s.strobes)
  | .fault _ => none
  | .refused _ => none

theorem test_strobeHighByte :
    wires (exec (.strobeHighByte true false true 0b1010#4) (testState PinMap.conventional false false [])) =
      some (0b10101101#8, []) := by decide

theorem test_strobeLowByte :
    wires (exec (.strobeLowByte true false true 0b1010#4)
      { testState PinMap.conventional false false [] with port := 0b10101101#8 }) =
      some (0b10101001#8, [⟨0b10101101#8, 0b10101001#8⟩]) := by decide

theorem test_idleByte :
    wires (exec (.idleByte true) (testState mapSwp false false [])) = some (0b10000000#8, []) := by decide

/-! ### The step -/

/-- P1, its first operation, from an instance with `BL_INIT = 0`. -/
theorem test_step_presented :
    seen (step { testState PinMap.conventional false false [okAns] with
      requests := [.command { HostCommand.blank 7#4 with on := true }] }) =
      some ([actW [0x08#8]], [⟨.ok, []⟩], true, false) := by decide

/-- A word of the table is the very next instruction after reset. -/
theorem test_step_fetch_word :
    step (State.reset.withFetchWord 8 0x0) = exec (.encode false false false 0#8) State.reset ∧
      step (State.reset.withFetchWord 8 0xA4) = exec (.strobeHighByte false false false 0b1010#4) State.reset :=
  ⟨rfl, rfl⟩

/-- V-T60. -/
theorem test_reset :
    State.reset.bl = Config.blInit ∧ State.reset.initialized = false ∧ State.reset.trace = [] := ⟨rfl, rfl, rfl⟩

/-! ### The convenience layer -/

/-- The geometry of V-L1 to V-L8. -/
def testGeometry : LayerParams := Config.layerDefaults 2 16 true false

/-- V-L1. -/
theorem test_position :
    ((layerPosition testGeometry 1 0 (testState PinMap.conventional true true [okAns])).1,
      (layerPosition testGeometry 1 0 (testState PinMap.conventional true true [okAns])).2.trace) =
      (Status.ok, [actW [0xCC#8, 0xC8#8, 0x0C#8, 0x08#8]]) := by decide

/-- V-S4: the address function alone. -/
theorem test_address_row_two : ddramAddress testGeometry 2 0 = 0x00 ∧ ddramAddress testGeometry 0 15 = 0x0F := by
  decide

/-- V-L4. -/
theorem test_home :
    (layerHome testGeometry (testState PinMap.conventional true true [okAns])).2.trace =
      [actW [0x0C#8, 0x08#8, 0x2C#8, 0x28#8], .delay 1520#32] := by decide

/-- V-S13. -/
theorem test_glyph_mask :
    glyphCode testGeometry 0x0D#8 = 5#8 ∧ glyphCode { testGeometry with fontMode := true } 7#8 = 6#8 ∧
      glyphCode { testGeometry with fontMode := true } 3#8 = 2#8 := by decide

/-- R168: the row in the low five bits, and a 5x8 glyph is one frame for each of its eight rows. -/
theorem test_glyph_rows :
    glyphRowByte 0b010#3 0b10101#5 = 0b01010101#8 ∧
      ((layerGlyphData testGeometry #v[1#5, 2#5, 3#5, 4#5, 5#5, 6#5, 7#5, 8#5]
        (testState PinMap.conventional true true (List.replicate 8 okAns))).2.trace.map (fun a => a.bytes.length)) =
        List.replicate 8 4 := ⟨by decide, by rfl⟩

/-! ### The instance of a configuration, and the controller's side -/

/-- R8: one step of the machine of a configuration, from a session that holds none; P1's first operation. -/
theorem test_machine_step :
    seen (outcomeUnder { Config.defaults 0x27#7 false with pinMap := mapScr }
      (sessionStep { Config.defaults 0x27#7 false with pinMap := mapScr }
        { testState mapScr false false [okAns] with
          requests := [.command { HostCommand.blank 7#4 with on := true }] }.toSession)) =
      some ([actW [0x04#8]], [⟨.ok, []⟩], true, false) := by decide

/-- R50, R56: the strobes of a character write of 0x48 under SCR (V-T29's bytes). -/
theorem test_latched_byte :
    latchedByte mapScr ⟨0xAC#8, 0x8C#8⟩ ⟨0xB4#8, 0x94#8⟩ = 0x48#8 ∧
      Strobe.transfer mapScr ⟨0xAC#8, 0x8C#8⟩ = .characterWrite := by decide

/-- R183, V-E44: construction is the reset of the machine of a valid configuration. -/
theorem test_construct_is_machine_reset :
    State.construct { Config.defaults 0x27#7 true with pinMap := mapScr } =
      some ((machine { Config.defaults 0x27#7 true with pinMap := mapScr } (by decide)).reset.under
        { Config.defaults 0x27#7 true with pinMap := mapScr }) := by rfl

/-! ### Witnesses: what meets the hypotheses of each statement -/

/-- BusFrameFormat, MarshalPlacesEveryRole, DecodeEncodeAgree: a valid map that is not the default, and an instruction
with an operand count to meet. -/
theorem witness_valid_map : mapScr.wf = true ∧ (Instr.sendBytes false 1 [0xFF#8]).wf = true := by decide

/-- UnmarshalReadsDataRoles: two samples that agree in the data roles and differ elsewhere. -/
theorem witness_samples_agree :
    (0xA0#8 : Byte).getLsbD 4 = (0xAF#8 : Byte).getLsbD 4 ∧ (0xA0#8 : Byte).getLsbD 5 = (0xAF#8 : Byte).getLsbD 5 ∧
      (0xA0#8 : Byte).getLsbD 6 = (0xAF#8 : Byte).getLsbD 6 ∧ (0xA0#8 : Byte).getLsbD 7 = (0xAF#8 : Byte).getLsbD 7 ∧
      (0xA0#8 : Byte) ≠ 0xAF#8 := by decide

/-- StrobePairLaw, EncodeDecodeRoundTrip, PortBytesDriveThePort, BacklightRidesOnEveryByte, ReadNotWriteFixedByOperation:
a state whose map is valid, with EN low and with EN high, and an instruction that gives a next state. -/
theorem witness_valid_state :
    (testState mapScr true true []).cfg.pinMap.wf = true ∧ (testState mapScr true true []).port.getLsbD 5 = false ∧
      ({ testState mapScr true true [] with port := 0x20#8 } : State).port.getLsbD mapScr.en = true ∧
      ∃ t, exec (.receiveByte true) (testState mapScr true true [okAns]) = .next t :=
  ⟨by decide, by decide, by decide, _, rfl⟩

/-- EncoderIsPureAndTotal: two states with one map. -/
theorem witness_same_map :
    (testState mapScr true true []).cfg.pinMap = (testState mapScr false false [okAns]).cfg.pinMap ∧
      testState mapScr true true [] ≠ testState mapScr false false [okAns] := by decide

/-- InitialiseCompletes. -/
theorem witness_initialise_completes :
    (testState mapScr true false (List.replicate 4 okAns)).cfg.pinMap.wf = true ∧
      (testState mapScr true false (List.replicate 4 okAns)).cfg.initFinalLen = 4 ∧
      (testState mapScr true false (List.replicate 4 okAns)).env.allOk 4 = true := by decide

/-- InitialiseFailureStops: the first and the last write. -/
theorem witness_initialise_fails :
    (testState mapScr true true [.fail 0]).env.FailsAt 0 0 ∧
      (testState mapScr true true [okAns, okAns, okAns, .fail 2]).env.FailsAt 3 2 := by decide

/-- OnlyHighNibbleOfFunctionSet8: both clauses, the first with the value of V-T16. -/
theorem witness_same_high_nibble :
    (testState mapScr true true []).cfg.pinMap.wf = true ∧ (testState mapScr true true []).cfg.cmdFs8 = 0x30#8 ∧
    (0x3F#8).extractLsb' 4 4 = (testState mapScr true true []).cfg.cmdFs8.extractLsb' 4 4 ∧
      ∃ t, exec (.initialise true false) (testState mapScr true true [.fail 0]) = .next t :=
  ⟨by decide, by decide, by decide, _, rfl⟩

/-- SendByteWritesOneFrame, ReceiveByteIsOneTransaction, SetBacklightWritesIdleByte, SendByteStrobesHighThenLow,
WritePrimitiveAndThePort: both clauses, the failure after no byte and after one. -/
theorem witness_one_answer :
    (testState mapScr true true [okAns]).env.allOk 1 = true ∧
      (testState mapScr true true [.ok 1#8 2#8]).env.answer = .ok 1#8 2#8 ∧
      (testState mapScr true true [.fail 0]).env.answer = .fail 0 ∧
      (testState mapScr true true [.fail 1]).env.answer = .fail 1 := by decide

/-- SendBytesWritesOneFramePerElement, ReceiveBytesReadsOnePerElement: no element, and two. -/
theorem witness_all_elements_ok :
    (testState mapScr true true []).env.allOk 0 = true ∧
      (testState mapScr true true [okAns, okAns]).env.allOk 2 = true := by decide

/-- SendBytesStopsAtFirstFailure, ReceiveBytesStopsAtFirstFailure: the first of one element, and the second of two. -/
theorem witness_element_fails :
    (testState mapScr true true [.fail 0]).env.FailsAt 0 0 ∧
      (testState mapScr true true [okAns, .fail 4]).env.FailsAt 1 4 ∧ 0 < 1 ∧ 1 < 2 := by decide

/-- SendBytesIsSequentialSendByte: both operations give a next state. -/
theorem witness_sequential :
    (testState mapScr true true [okAns, .fail 1]).env.allOk 1 = true ∧
      ∃ t u, exec (.sendByte true 0x48#8) (testState mapScr true true [okAns, .fail 1]) = .next t ∧
        exec (.sendBytes true 1 [0x69#8]) t = .next u :=
  ⟨by decide, _, _, rfl, rfl⟩

/-- StatusByteFields: V-T30's samples. -/
theorem witness_status_read :
    (testState PinMap.conventional false true [.ok 0x86#8 0x36#8]).env.answer = .ok 0x86#8 0x36#8 := by decide

/-- SessionStateWriters, InitializedSaysInitialiseSucceeded, BoundedExternalActions, FirstFailureEndsOperation: an
INITIALIZE, a SET_BACKLIGHT and a SEND_BYTE give a next state. -/
theorem witness_next_states :
    (∃ t, exec (.initialise true true) (testState mapScr true true [okAns, .fail 1]) = .next t) ∧
      (∃ t, exec (.setBacklight true) (testState mapScr false true [.fail 1]) = .next t) ∧
      (∃ t, exec (.sendByte true 0#8) (testState mapScr false true [okAns]) = .next t) ∧
      (Instr.sendByte true 0#8).isOperation = true :=
  ⟨⟨_, rfl⟩, ⟨_, rfl⟩, ⟨_, rfl⟩, rfl⟩

/-- TransportErrorEntry: a SEND_BYTE whose write fails. -/
theorem witness_error_entry :
    ∃ t, exec (.sendByte true 0#8) (testState PinMap.conventional true true [.fail 0]) = .next t ∧
      t.trace = (testState PinMap.conventional true true []).trace ++ [actWFail [0x0D#8, 0x09#8, 0x0D#8, 0x09#8]] ∧
      (actWFail [0x0D#8, 0x09#8, 0x0D#8, 0x09#8]).failed = true :=
  ⟨_, rfl, by decide, by decide⟩

/-- OperationsDoNotReadGhostOrPort: two states that differ in the ghost bit, the port and the controller. -/
theorem witness_same_for_the_block :
    State.SameForTheBlock (testState mapScr true true [okAns])
        { testState mapScr true false [okAns] with port := 0xFF#8, controller := .eightBit } ∧
      ∃ t t', exec (.sendByte true 0#8) (testState mapScr true true [okAns]) = .next t ∧
        exec (.sendByte true 0#8)
          { testState mapScr true false [okAns] with port := 0xFF#8, controller := .eightBit } = .next t' :=
  ⟨by decide, _, _, rfl, rfl⟩

/-- BootedTransferReachesController: an initialised instance and a controller in 4-bit mode, for a write and a read. -/
theorem witness_booted :
    mapScr.wf = true ∧ State.Booted { testState mapScr true true [okAns] with controller := .fourBit .high } ∧
      ({ testState mapScr true true [okAns] with controller := .fourBit .high } : State).env.allOk 1 = true := by decide

/-- CompletedOperationsKeepNibbleBoundary: a controller in 4-bit mode, EN low, and a SEND_BYTE that answers `Ok`. -/
theorem witness_nibble_boundary :
    roleBit mapScr .en ({ testState mapScr true true [okAns] with controller := .fourBit .high } : State).port = false ∧
      ∃ t,
        exec (.sendByte true 0#8) { testState mapScr true true [okAns] with controller := .fourBit .high } = .next t ∧
        t.results = [⟨.ok, []⟩] :=
  ⟨by decide, _, rfl, by decide⟩

/-- StepRunsPresentedOperation, StepWithoutRequestDoesNothing. -/
theorem witness_requests :
    (testState mapScr true true []).seq = .idle ∧ (testState mapScr true true []).requests = [] ∧
      decode mapScr (.command (HostCommand.blank 8#4)) = .ok (.delay 0#32) ∧
      ({ testState mapScr true true [] with requests := [.command (HostCommand.blank 8#4)] } : State).requests =
        [.command (HostCommand.blank 8#4)] := by decide

/-- StepFinishesRunningOperation: DELAY under way. -/
theorem witness_running :
    (startOperation (.delay 7#32) (testState mapScr true true [])).seq = .running (.delay 7#32) [.delay 7#32] [] := by
  decide

/-- ReservedOpCodesRefused, at both ends. -/
theorem witness_reserved :
    9 ≤ (HostCommand.blank 9#4).op.toNat ∧ 9 ≤ (HostCommand.blank 15#4).op.toNat ∧
      ({ testState mapScr true true [] with requests := [.command (HostCommand.blank 9#4)] } : State).requests =
        [.command (HostCommand.blank 9#4)] := by decide

/-- SendBytesOperandCountChecked: a count that agrees and one that does not. -/
theorem witness_operand_count :
    ({ HostCommand.blank 4#4 with n := 1, bytes := [5#8] } : HostCommand).bytes.length = 1 ∧
      ({ HostCommand.blank 4#4 with n := 1 } : HostCommand).bytes.length ≠ 1 ∧ (HostCommand.blank 4#4).op = 4#4 := by
  decide

/-- SequencerRefinesOperation: an operation on an idle block. -/
theorem witness_idle :
    (Instr.initialise true true).isOperation = true ∧ (testState mapScr true true [okAns, .fail 1]).seq = .idle := by
  decide

/-- StepKeepsInvariant: a state with the invariant, a controller known to be in 4-bit mode, something in its trace, and a
next state. -/
theorem witness_invariant :
    State.Inv ({ testState mapScr true true [okAns] with
      trace := [actW [0x04#8]], controller := .fourBit .high, requests := [.command (HostCommand.blank 3#4)] } : State) ∧
      ∃ t, step { testState mapScr true true [okAns] with
        trace := [actW [0x04#8]], controller := .fourBit .high,
        requests := [.command (HostCommand.blank 3#4)] } = .next t :=
  ⟨by decide, _, rfl⟩

/-- ConstructionSetsSessionState, the first clause: both policies, and both ends of the length. -/
theorem witness_valid_configurations :
    mapScr.positions.Nodup ∧ PinMap.conventional.positions.Nodup ∧
      (Config.defaults 0x7F#7 true).policy = .custom ∧ (Config.defaults 0x7F#7 true).pinMap = PinMap.conventional ∧
      1 ≤ ({ Config.defaults 0x7F#7 true with initFinalLen := 1 } : Params).initFinalLen ∧
      ({ Config.defaults 0x7F#7 true with initFinalLen := 4 } : Params).initFinalLen ≤ 4 := by decide

/-- ConfigurationIsAnArgument: a valid configuration that is not the default. -/
theorem witness_valid_configuration : ({ Config.defaults 0x7F#7 true with pinMap := mapScr } : Params).wf = true := by
  decide

/-- ConstructionSetsSessionState, the three refusals: two roles at one position, another map under the conventional
policy, a length of 0 and of 5. -/
theorem witness_refused_configurations :
    ¬ (⟨0, 0, 2, 3, 4, 5, 6, 7⟩ : PinMap).positions.Nodup ∧ mapScr ≠ PinMap.conventional ∧
      ({ Config.defaults 0x7F#7 true with initFinalLen := 0 } : Params).initFinalLen = 0 ∧
      4 < ({ Config.defaults 0x7F#7 true with initFinalLen := 5 } : Params).initFinalLen := by decide

/-- PinMapIsPermutation: eight numbers that make a map. -/
theorem witness_positions : PinMap.ofPositions [4, 5, 6, 7, 0, 1, 2, 3] = some mapSwp := by decide

/-- PositionRangeError, PositionSendsDdramAddress: each bound alone, and the last cell inside. -/
theorem witness_position :
    (testGeometry.rows ≤ 2 ∧ ¬ testGeometry.cols ≤ 0) ∧ (testGeometry.cols ≤ 16 ∧ ¬ testGeometry.rows ≤ 0) ∧
      1 < testGeometry.rows ∧ 15 < testGeometry.cols ∧ testGeometry.lineMode = true ∧ (1 % 2) * 0x40 + 15 < 128 := by
  decide

/-- ClearAndHomeRequestDelay: a send that succeeds and one that fails. -/
theorem witness_clear :
    (testState mapScr true true [okAns]).env.allOk 1 = true ∧ (testState mapScr true true [.fail 3]).env.allOk 1 = false ∧
      ∃ t, exec (.sendByte false testGeometry.cmdClear) (testState mapScr true true [.fail 3]) = .next t :=
  ⟨by decide, by decide, _, rfl⟩

/-- GlyphCodeMask: both fonts. -/
theorem witness_fonts :
    testGeometry.fontMode = false ∧ ({ testGeometry with fontMode := true } : LayerParams).fontMode = true := by decide

end Sys2Proof.Machine
end

section
/-! The scope family (spec/00_scope.md): the configuration is an argument of the machine (R8). Every external action, every
advance of the sequencer and so every step keeps the configuration, from which runs under it agree. -/

namespace Sys2Proof.Machine

/-- Everything a step that answers a next state can be (R12, R41, R190): the rest of a running operation, nothing where
nothing is presented, or the meaning of the request presented first, from the state with that request taken away. -/
theorem step_next_cases {s t : State} (h : step s = .next t) :
    (∃ op rest received, s.seq = .running op rest received ∧ t = ticks (rest.length + 1) s) ∨
    (s.seq = .idle ∧ s.requests = [] ∧ t = s) ∨
    (∃ r rest i, s.seq = .idle ∧ s.requests = r :: rest ∧ decode s.cfg.pinMap r = .ok i ∧
      exec i (s.setRequests rest) = .next t) := by
  unfold step at h
  split at h
  next op rest received hseq =>
    cases h
    exact .inl ⟨op, rest, received, hseq, rfl⟩
  next hseq =>
    split at h
    next hreq =>
      cases h
      exact .inr (.inl ⟨hseq, hreq, rfl⟩)
    next r rest hreq =>
      split at h
      next i hdec => exact .inr (.inr ⟨r, rest, i, hseq, hreq, hdec, h⟩)
      next => cases h

/-- A write of strobe pairs keeps the configuration. -/
theorem strobedWrite_cfg (reach : Option ControllerBus) (bytes : List Byte) (s : State) :
    (strobedWrite reach bytes s).2.cfg = s.cfg :=
  (progress_strobedWrite (fun _ => True) reach bytes s fun _ => trivial).cfg

/-- A write keeps the configuration. -/
theorem i2cWrite_cfg (bytes : List Byte) (s : State) : (i2cWrite bytes s).2.cfg = s.cfg :=
  (progress_i2cWrite (fun _ => True) bytes s fun _ => trivial).cfg

/-- A read transaction keeps the configuration. -/
theorem readTransaction_cfg (ops : List BusOp) (s : State) : (readTransaction ops s).2.cfg = s.cfg :=
  (progress_readTransaction (fun _ => True) ops s fun _ _ => trivial).cfg

/-- A planned action leaves the state its primitive leaves, whatever the answer, and so keeps the configuration. -/
theorem perform_cfg (a : Planned) (s : State) : (perform a s).2.cfg = s.cfg := by
  cases a with
  | strobed bytes reach =>
    rw [← strobedWrite_cfg reach bytes s, perform]
    split <;> next e => rw [e]
  | idle byte =>
    rw [← i2cWrite_cfg [byte] s, perform]
    split <;> next e => rw [e]
  | read ops =>
    rw [← readTransaction_cfg ops s, perform]
    split <;> next e => rw [e]
  | delay us => rfl

/-- The return of an operation keeps the configuration. -/
@[simp] theorem epilogue_cfg (op : Instr) (received : List Byte) (s : State) :
    (epilogue op received s).cfg = s.cfg := by
  cases op <;> rfl

/-- An advance of the sequencer keeps the configuration. -/
theorem tick_cfg (s : State) : (tick s).cfg = s.cfg := by
  unfold tick
  split
  next => rfl
  next => simp
  next op a rest received _ =>
    rw [← perform_cfg a s]
    split <;> next e => simp [e]

/-- So does any number of advances. -/
theorem ticks_cfg (k : Nat) (s : State) : (ticks k s).cfg = s.cfg := by
  induction k generalizing s with
  | zero => rfl
  | succ k ih => exact (ih (tick s)).trans (tick_cfg s)

/-- No step writes the configuration (R8). -/
theorem step_cfg {s t : State} (h : step s = .next t) : t.cfg = s.cfg := by
  obtain ⟨op, rest, received, _, rfl⟩ | ⟨_, _, rfl⟩ | ⟨r, rest, i, _, _, _, hexec⟩ := step_next_cases h
  · exact ticks_cfg _ s
  · rfl
  · exact (exec_effect i _ hexec).cfg

/-- A step of the one machine under a configuration is the step of that configuration's machine. -/
theorem step_under (p : Params) (s : Session) : step (s.under p) = outcomeUnder p (sessionStep p s) :=
  (outcomeUnder_sessionStep p s fun _ h => step_cfg h).symm

/-- Steps that agree give runs that agree. -/
theorem run_under {p : Params} (valid : p.wf = true) (k : Nat) (s : Session) :
    Sys2Proof.core.run k (s.under p) = outcomeUnder p ((machine p valid).run k s) := by
  induction k generalizing s with
  | zero => rfl
  | succ k ih =>
    have hstep : Sys2Proof.core.step (s.under p) = outcomeUnder p ((machine p valid).step s) := step_under p s
    rcases e : (machine p valid).step s with t | r | r <;> rw [e] at hstep
    · rw [run_of_next _ hstep, run_of_next _ e]
      exact ih t
    · rw [run_of_fault _ hstep, run_of_fault _ e]
      rfl
    · rw [run_of_refused _ hstep, run_of_refused _ e]
      rfl

/-- Settles O48: no step writes the configuration, so by induction on the number of steps the runs agree. -/
theorem configurationIsAnArgument : Obligations.ConfigurationIsAnArgument :=
  ⟨fun _ valid => ⟨construct_of_wf valid, run_under valid⟩, Config.params_wf, rfl⟩

end Sys2Proof.Machine
end

section
/-! The state family (spec/10_state.md): the PinMap (R25), who writes the session state (R27 to R29), and the sequencer
(R22). An operation is a list of planned external actions between a prologue and an epilogue: `exec_eq_runPlanned` says
so of `exec`, and `ticks_startOperation` of the sequencer. So what holds of each action holds of each operation. -/

namespace Sys2Proof.Machine

/-! ### The PinMap -/

/-- A PinMap is valid exactly if its positions, as numbers, are distinct. -/
theorem PinMap.wf_iff_nodup_val (m : PinMap) : m.wf = true ↔ (m.positions.map Fin.val).Nodup := by
  rw [List.nodup_map_iff Fin.val_injective, PinMap.wf, decide_eq_true_eq]

/-- Eight numbers below 8 are the positions of a PinMap, valid or not. -/
theorem PinMap.exists_positions {l : List Nat} (hlen : l.length = 8) (hlt : ∀ x ∈ l, x < 8) :
    ∃ m : PinMap, m.positions.map Fin.val = l := by
  match l, hlen with
  | [a, b, c, d, e, f, g, h], _ =>
    simp only [List.mem_cons, List.not_mem_nil, or_false, forall_eq_or_imp, forall_eq] at hlt
    obtain ⟨ha, hb, hc, hd, he, hf, hg, hh⟩ := hlt
    exact ⟨⟨⟨a, ha⟩, ⟨b, hb⟩, ⟨c, hc⟩, ⟨d, hd⟩, ⟨e, he⟩, ⟨f, hf⟩, ⟨g, hg⟩, ⟨h, hh⟩⟩, rfl⟩

/-- Eight numbers make the PinMap `m` exactly if `m` is valid and they are its positions. -/
theorem PinMap.ofPositions_eq_some {l : List Nat} {m : PinMap} :
    PinMap.ofPositions l = some m ↔ m.wf = true ∧ m.positions.map Fin.val = l := by
  constructor
  · intro h
    unfold PinMap.ofPositions at h
    split at h
    next =>
      split at h
      next =>
        dsimp only at h
        split at h
        next hwf =>
          cases h
          exact ⟨hwf, rfl⟩
        next => cases h
      next => cases h
    next => cases h
  · rintro ⟨hwf, rfl⟩
    simp [PinMap.ofPositions, PinMap.positions, hwf]

/-- Numbers make a PinMap exactly if they are a permutation of 0 to 7. -/
theorem PinMap.isSome_ofPositions (l : List Nat) :
    (PinMap.ofPositions l).isSome = true ↔ l.length = 8 ∧ (∀ x ∈ l, x < 8) ∧ l.Nodup := by
  rw [Option.isSome_iff_exists]
  constructor
  · rintro ⟨m, hm⟩
    obtain ⟨hwf, rfl⟩ := PinMap.ofPositions_eq_some.1 hm
    refine ⟨rfl, fun x hx => ?_, (PinMap.wf_iff_nodup_val m).1 hwf⟩
    obtain ⟨p, -, rfl⟩ := List.mem_map.1 hx
    exact p.isLt
  · rintro ⟨hlen, hlt, hnodup⟩
    obtain ⟨m, rfl⟩ := PinMap.exists_positions hlen hlt
    exact ⟨m, PinMap.ofPositions_eq_some.2 ⟨(PinMap.wf_iff_nodup_val m).2 hnodup, rfl⟩⟩

/-- Settles O49: the PinMap of eight numbers is the valid one with those positions. -/
theorem pinMapIsPermutation : Obligations.PinMapIsPermutation := fun l =>
  ⟨fun _ => PinMap.ofPositions_eq_some.1, PinMap.isSome_ofPositions l⟩

/-! ### Who writes the session state -/

/-- Only SET_BACKLIGHT leaves another `BL` than it finds. -/
theorem blAfter_of_ne {i : Instr} (h : ∀ on, i ≠ .setBacklight on) (s : State) : blAfter i s = s.bl := by
  unfold blAfter
  split
  next on => exact absurd rfl (h on)
  next => rfl

/-- Settles O26, from what every instruction can do. -/
theorem sessionStateWriters : Obligations.SessionStateWriters := by
  intro i s t h
  have effect := exec_effect i s h
  refine ⟨effect.cfg, fun hne => effect.bl.trans (blAfter_of_ne hne s), ?_, effect.ini⟩
  rintro on rfl
  exact effect.bl

/-- Settles O27: the one answer of INITIALIZE has one of two statuses, and the ghost bit says which. -/
theorem initializedSaysInitialiseSucceeded : Obligations.InitializedSaysInitialiseSucceeded := by
  intro lineMode fontMode s t h
  obtain ⟨added, -, -, -, answers, -⟩ := (exec_effect _ s h).tr
  obtain ⟨r, hres, hstatus, hini⟩ := answers rfl
  refine ⟨r, hres, ?_⟩
  rw [hini lineMode fontMode rfl]
  obtain ⟨e, -⟩ | ⟨e, -⟩ := hstatus <;> simp [e]

/-! ### One planned action -/

/-- What a write has received: nothing where it succeeded, `none` where it failed. -/
def writeReceived (ok : Bool) : Option (List Byte) := if ok then some [] else none

@[simp] theorem perform_strobed (bytes : List Byte) (reach : Option ControllerBus) (s : State) :
    perform (.strobed bytes reach) s =
      (writeReceived (strobedWrite reach bytes s).1, (strobedWrite reach bytes s).2) := by
  rw [perform]
  split <;> next e => simp [e, writeReceived]

@[simp] theorem perform_idle (byte : Byte) (s : State) :
    perform (.idle byte) s = (writeReceived (i2cWrite [byte] s).1, (i2cWrite [byte] s).2) := by
  rw [perform]
  split <;> next e => simp [e, writeReceived]

@[simp] theorem perform_read (ops : List BusOp) (s : State) :
    perform (.read ops) s = ((readTransaction ops s).1.map fun v => [v], (readTransaction ops s).2) := by
  rw [perform]
  split <;> next e => simp [e]

@[simp] theorem perform_delay (us : Microseconds) (s : State) :
    perform (.delay us) s = (some [], delayUs us s) := rfl

@[simp] theorem isSome_writeReceived (ok : Bool) : (writeReceived ok).isSome = ok := by
  cases ok <;> rfl

/-- A planned action is one external action and nothing else of the block's. -/
theorem progress_perform (a : Planned) (s : State) :
    Progress (fun _ => True) s (perform a s).2 (perform a s).1.isSome 1 := by
  cases a with
  | strobed bytes reach => simpa using progress_strobedWrite (fun _ => True) reach bytes s fun _ => trivial
  | idle byte => simpa using progress_i2cWrite (fun _ => True) [byte] s fun _ => trivial
  | read ops => simpa using progress_readTransaction (fun _ => True) ops s fun _ _ => trivial
  | delay us => exact progress_delayUs (fun _ => True) us s trivial

/-! ### No planned action reads the sequencer -/

/-- Bytes arriving at the port do not move the sequencer. -/
theorem driveAll_setSeq (q : Sequencer) (bs : List Byte) (s : State) :
    (s.setSeq q).driveAll bs = (s.driveAll bs).setSeq q := by
  induction bs generalizing s with
  | nil => rfl
  | cons b bs ih => exact ih (s.drive b)

/-- A write does not read the sequencer. -/
theorem i2cWrite_setSeq (q : Sequencer) (bytes : List Byte) (s : State) :
    i2cWrite bytes (s.setSeq q) = ((i2cWrite bytes s).1, (i2cWrite bytes s).2.setSeq q) := by
  have drive (bs : List Byte) := driveAll_setSeq q bs (s.setEnv s.env.next)
  rcases EnvAnswer.ok_or_fail s.env.answer with ⟨s0, s1, h⟩ | ⟨k, h⟩
  · rw [i2cWrite_ok h, i2cWrite_ok (s := s.setSeq q) h]
    exact congrArg (fun t => (true, State.record _ t)) (drive _)
  · rw [i2cWrite_fail h, i2cWrite_fail (s := s.setSeq q) h]
    exact congrArg (fun t => (false, State.record _ t)) (drive _)

/-- A write of strobe pairs does not read the sequencer. -/
theorem strobedWrite_setSeq (q : Sequencer) (reach : Option ControllerBus) (bytes : List Byte) (s : State) :
    strobedWrite reach bytes (s.setSeq q) =
      ((strobedWrite reach bytes s).1, (strobedWrite reach bytes s).2.setSeq q) := by
  unfold strobedWrite
  rw [i2cWrite_setSeq]
  rcases i2cWrite bytes s with ⟨_ | _, t⟩
  · rfl
  · cases reach <;> rfl

/-- A read transaction does not read the sequencer. -/
theorem readTransaction_setSeq (q : Sequencer) (ops : List BusOp) (s : State) :
    readTransaction ops (s.setSeq q) = ((readTransaction ops s).1, (readTransaction ops s).2.setSeq q) := by
  have drive (bs : List Byte) := driveAll_setSeq q bs (s.setEnv s.env.next)
  rcases EnvAnswer.ok_or_fail s.env.answer with ⟨s0, s1, h⟩ | ⟨k, h⟩
  · rw [readTransaction_ok h, readTransaction_ok (s := s.setSeq q) h]
    exact congrArg (fun t => (some _, State.record _ t)) (drive _)
  · rw [readTransaction_fail h, readTransaction_fail (s := s.setSeq q) h]
    exact congrArg (fun t => (none, State.setController _ (State.record _ t))) (drive _)

/-- No planned action reads the sequencer. -/
theorem perform_setSeq (q : Sequencer) (a : Planned) (s : State) :
    perform a (s.setSeq q) = ((perform a s).1, (perform a s).2.setSeq q) := by
  cases a with
  | strobed bytes reach => simp [strobedWrite_setSeq]
  | idle byte => simp [i2cWrite_setSeq]
  | read ops => simp [readTransaction_setSeq]
  | delay us => rfl

/-- No epilogue reads the sequencer. -/
theorem epilogue_setSeq (q : Sequencer) (op : Instr) (received : List Byte) (s : State) :
    epilogue op received (s.setSeq q) = (epilogue op received s).setSeq q := by
  cases op <;> rfl

/-- An epilogue leaves what the host will present. -/
@[simp] theorem epilogue_requests (op : Instr) (received : List Byte) (s : State) :
    (epilogue op received s).requests = s.requests := by
  cases op <;> rfl

/-! ### A list of planned actions -/

/-- Planned actions one after the other, up to the first failure: whether all succeeded, the bytes received, and the
state. -/
def runPlanned : List Planned → State → Bool × List Byte × State
  | [], s => (true, [], s)
  | a :: rest, s =>
    match perform a s with
    | (none, t) => (false, [], t)
    | (some bytes, t) =>
      ((runPlanned rest t).1, bytes ++ (runPlanned rest t).2.1, (runPlanned rest t).2.2)

/-- How an operation ends after its planned actions, where it has received some bytes before them. -/
def conclude (op : Instr) (received : List Byte) (r : Bool × List Byte × State) : State :=
  match r with
  | (true, bytes, t) => epilogue op (received ++ bytes) t
  | (false, bytes, t) => t.raiseTransportError (received ++ bytes)

@[simp] theorem runPlanned_nil (s : State) : runPlanned [] s = (true, [], s) := rfl

theorem runPlanned_cons_some {a : Planned} {s t : State} {bytes : List Byte} (h : perform a s = (some bytes, t))
    (rest : List Planned) :
    runPlanned (a :: rest) s =
      ((runPlanned rest t).1, bytes ++ (runPlanned rest t).2.1, (runPlanned rest t).2.2) := by
  simp only [runPlanned, h]

theorem runPlanned_cons_none {a : Planned} {s t : State} (h : perform a s = (none, t)) (rest : List Planned) :
    runPlanned (a :: rest) s = (false, [], t) := by
  simp only [runPlanned, h]

/-- Planned actions are external actions, one for each at most, and nothing else of the block's. -/
theorem progress_runPlanned (l : List Planned) (s : State) :
    Progress (fun _ => True) s (runPlanned l s).2.2 (runPlanned l s).1 l.length := by
  induction l generalizing s with
  | nil => exact Progress.refl ..
  | cons a rest ih =>
    have first := progress_perform a s
    rcases e : perform a s with ⟨_ | bytes, t⟩ <;> rw [e] at first
    · rw [runPlanned_cons_none e]
      exact first.mono (by simp)
    · rw [runPlanned_cons_some e, List.length_cons, Nat.add_comm]
      exact first.trans (ih t)

/-- No list of planned actions reads the sequencer. -/
theorem runPlanned_setSeq (q : Sequencer) (l : List Planned) (s : State) :
    runPlanned l (s.setSeq q) =
      ((runPlanned l s).1, (runPlanned l s).2.1, (runPlanned l s).2.2.setSeq q) := by
  induction l generalizing s with
  | nil => rfl
  | cons a rest ih =>
    have first := perform_setSeq q a s
    rcases e : perform a s with ⟨_ | bytes, t⟩ <;> rw [e] at first
    · rw [runPlanned_cons_none e, runPlanned_cons_none first]
    · rw [runPlanned_cons_some e, runPlanned_cons_some first, ih t]

/-- The end of an operation does not read the sequencer. -/
theorem conclude_setSeq (q : Sequencer) (op : Instr) (received : List Byte) (r : Bool × List Byte × State) :
    conclude op received (r.1, r.2.1, r.2.2.setSeq q) = (conclude op received r).setSeq q := by
  rcases r with ⟨_ | _, bytes, t⟩
  · rfl
  · exact epilogue_setSeq q op _ t

/-- Bytes received by the first planned action are bytes received before the rest. -/
theorem conclude_append (op : Instr) (received bytes : List Byte) (r : Bool × List Byte × State) :
    conclude op received (r.1, bytes ++ r.2.1, r.2.2) = conclude op (received ++ bytes) r := by
  rcases r with ⟨_ | _, vs, t⟩ <;> simp [conclude]

/-- The end of an operation writes neither the configuration nor what the host will present. -/
theorem conclude_frame (op : Instr) (received : List Byte) (r : Bool × List Byte × State) :
    (conclude op received r).requests = r.2.2.requests ∧ (conclude op received r).cfg = r.2.2.cfg := by
  rcases r with ⟨_ | _, bytes, t⟩ <;> simp [conclude]

/-! ### The sequencer performs the list -/

theorem setSeq_setSeq (q q' : Sequencer) (s : State) : (s.setSeq q).setSeq q' = s.setSeq q' := rfl

theorem setSeq_self {q : Sequencer} {s : State} (h : s.seq = q) : s.setSeq q = s := by
  subst h; rfl

/-- An idle sequencer stays where it is. -/
theorem ticks_idle (k : Nat) {s : State} (h : s.seq = .idle) : ticks k s = s := by
  induction k with
  | zero => rfl
  | succ k ih => rw [ticks, show tick s = s by rw [tick, h], ih]

/-- A running sequencer advanced to its end has performed the rest of its list and returned to the host. -/
theorem ticks_running {s : State} {op : Instr} {rest : List Planned} {received : List Byte}
    (h : s.seq = .running op rest received) :
    ticks (rest.length + 1) s = (conclude op received (runPlanned rest s)).setSeq .idle := by
  induction rest generalizing s received with
  | nil => simp [ticks, tick, h, conclude]
  | cons a rest ih =>
    rw [List.length_cons, ticks]
    rcases e : perform a s with ⟨_ | bytes, t⟩
    · have htick : tick s = (t.raiseTransportError received).setSeq .idle := by simp only [tick, h, e]
      rw [htick, ticks_idle _ (by rfl), runPlanned_cons_none e, conclude, List.append_nil]
    · have htick : tick s = t.setSeq (.running op rest (received ++ bytes)) := by simp only [tick, h, e]
      rw [htick, ih (by rfl), runPlanned_setSeq, conclude_setSeq, setSeq_setSeq, runPlanned_cons_some e,
        conclude_append]

/-- Settles O39: the step performs the rest of the list, and neither the actions nor the return to the host touch the
requests or the configuration. -/
theorem stepFinishesRunningOperation : Obligations.StepFinishesRunningOperation := by
  intro s op rest received h
  have run := progress_runPlanned rest s
  obtain ⟨hreq, hcfg⟩ := conclude_frame op received (runPlanned rest s)
  refine ⟨(conclude op received (runPlanned rest s)).setSeq .idle, ?_, rfl, hreq.trans run.req, hcfg.trans run.cfg⟩
  rw [step, h, ← ticks_running h]

/-! ### `exec` performs the list -/

/-- The outcome of actions that receive nothing, as `runPlanned` gives it. -/
def withoutValue (r : Bool × State) : Bool × List Byte × State := (r.1, [], r.2)

/-- A first write of strobe pairs, and then the rest where it succeeded. -/
theorem runPlanned_strobed_cons {bytes : List Byte} {reach : Option ControllerBus} {s : State} {rest : List Planned}
    {f : State → Bool × State}
    (h : ∀ t, strobedWrite reach bytes s = (true, t) → runPlanned rest t = withoutValue (f t)) :
    runPlanned (.strobed bytes reach :: rest) s = withoutValue (orRaise (strobedWrite reach bytes s) f) := by
  have first := perform_strobed bytes reach s
  rcases e : strobedWrite reach bytes s with ⟨_ | _, t⟩ <;> rw [e] at first
  · exact runPlanned_cons_none first rest
  · rw [runPlanned_cons_some first, h t e]
    rfl

/-- A delay succeeds and receives nothing. -/
@[simp] theorem runPlanned_delay_cons (us : Microseconds) (rest : List Planned) (s : State) :
    runPlanned (.delay us :: rest) s = runPlanned rest (delayUs us s) := rfl

/-- One write of strobe pairs alone. -/
theorem runPlanned_strobed (bytes : List Byte) (reach : Option ControllerBus) (s : State) :
    runPlanned [.strobed bytes reach] s = withoutValue (strobedWrite reach bytes s) := by
  rw [runPlanned_strobed_cons (f := fun t => (true, t)) fun _ _ => rfl]
  rcases strobedWrite reach bytes s with ⟨_ | _, t⟩ <;> rfl

/-- The one write of SET_BACKLIGHT. -/
theorem runPlanned_idle (byte : Byte) (s : State) :
    runPlanned [.idle byte] s = withoutValue (i2cWrite [byte] s) := by
  have first := perform_idle byte s
  rcases e : i2cWrite [byte] s with ⟨_ | _, t⟩ <;> rw [e] at first
  · exact runPlanned_cons_none first []
  · exact runPlanned_cons_some first []

/-- The list of INITIALIZE is its handshake. -/
theorem runPlanned_initHandshake (lineMode fontMode : Bool) (s : State) :
    runPlanned (plannedActions (.initialise lineMode fontMode) s) s =
      withoutValue (initHandshake lineMode fontMode s) := by
  refine runPlanned_strobed_cons fun s1 _ => ?_
  rw [runPlanned_delay_cons]
  refine runPlanned_strobed_cons fun s2 _ => ?_
  rw [runPlanned_delay_cons]
  exact runPlanned_strobed_cons fun s3 _ => runPlanned_strobed _ _ s3

/-- The list of SEND_BYTES is its loop: no frame changes what the next is built from. -/
theorem runPlanned_sendFrames (rs : Bool) (bytes : List Byte) (s : State) :
    runPlanned (bytes.map fun b => .strobed (sendFrameBytes s.cfg s.bl rs b) none) s =
      withoutValue (sendFrames rs bytes s) := by
  induction bytes generalizing s with
  | nil => rfl
  | cons b bs ih =>
    refine runPlanned_strobed_cons fun t e => ?_
    have first := progress_strobedWrite (fun _ => True) none (sendFrameBytes s.cfg s.bl rs b) s fun _ => trivial
    rw [e] at first
    rw [← first.cfg, ← first.bl]
    exact ih t

/-- The list of RECEIVE_BYTES is its loop. -/
theorem runPlanned_receiveMany (rs : Bool) (n : Nat) (s : State) :
    runPlanned (List.replicate n (.read (readOps s.cfg s.bl rs))) s = receiveMany rs n s := by
  induction n generalizing s with
  | zero => rfl
  | succ n ih =>
    have first := progress_readTransaction (fun _ => True) (readOps s.cfg s.bl rs) s fun _ _ => trivial
    have read := perform_read (readOps s.cfg s.bl rs) s
    rw [receiveMany, receiveOne, List.replicate_succ]
    rcases e : readTransaction (readOps s.cfg s.bl rs) s with ⟨_ | v, t⟩ <;> rw [e] at first read
    · exact runPlanned_cons_none read _
    · rw [runPlanned_cons_some read, ← first.cfg, ← first.bl, ih t]
      rfl

/-- An operation without a value ends as `finish` says. -/
theorem conclude_withoutValue {op : Instr} (h : ∀ t, epilogue op [] t = t.answerOk []) (r : Bool × State) :
    conclude op [] (withoutValue r) = finish r := by
  rcases r with ⟨_ | _, t⟩
  · rfl
  · exact h t

/-- What `exec` says of a whole operation: its prologue, its planned actions up to the first failure, and its return. -/
theorem exec_eq_runPlanned {i : Instr} (hi : i.isOperation = true) (s : State) :
    exec i s = .next (conclude i [] (runPlanned (plannedActions i s) (prologue i s))) := by
  cases i with
  | encode rs rnw bl data => rfl
  | decode s0 s1 => rfl
  | initialise lineMode fontMode =>
    have run := runPlanned_initHandshake lineMode fontMode (s.setInitialized false)
    refine congrArg Host.Outcome.next (Eq.trans ?_ (congrArg (conclude (.initialise lineMode fontMode) []) run).symm)
    rcases initHandshake lineMode fontMode (s.setInitialized false) with ⟨_ | _, t⟩ <;> rfl
  | sendByte rs data =>
    rw [plannedActions, prologue, runPlanned_strobed, conclude_withoutValue fun _ => rfl]
    rfl
  | sendBytes rs n bytes =>
    rw [plannedActions, prologue, runPlanned_sendFrames, conclude_withoutValue fun _ => rfl]
    rfl
  | receiveByte rs =>
    have read := perform_read (readOps s.cfg s.bl rs) s
    rw [plannedActions, prologue]
    refine congrArg Host.Outcome.next ?_
    unfold receiveOne
    rcases e : readTransaction (readOps s.cfg s.bl rs) s with ⟨_ | v, t⟩ <;> rw [e] at read
    · rw [runPlanned_cons_none read]
      rfl
    · rw [runPlanned_cons_some read]
      rfl
  | receiveBytes rs n =>
    rw [plannedActions, prologue, runPlanned_receiveMany]
    refine congrArg Host.Outcome.next ?_
    rcases receiveMany rs n s with ⟨_ | _, vs, t⟩ <;> rfl
  | setBacklight on =>
    rw [plannedActions, prologue, runPlanned_idle, conclude_withoutValue fun _ => rfl]
    rfl
  | delay us => rfl
  | strobeHighByte rs rnw bl n => cases hi
  | strobeLowByte rs rnw bl n => cases hi
  | idleByte bl => cases hi

/-- An operation started on the sequencer and advanced to its end has performed its list and returned to the host. -/
theorem ticks_startOperation (i : Instr) (s : State) :
    ticks (startOperation i s).seq.remaining (startOperation i s) =
      (conclude i [] (runPlanned (plannedActions i s) (prologue i s))).setSeq .idle := by
  have hticks : ticks (startOperation i s).seq.remaining (startOperation i s) = _ := ticks_running (by rfl)
  rw [hticks, startOperation, runPlanned_setSeq, conclude_setSeq, setSeq_setSeq]

/-- Settles O44: both perform the operation's list between its prologue and its return, and no instruction moves the
sequencer. -/
theorem sequencerRefinesOperation : Obligations.SequencerRefinesOperation := by
  intro i s hi hidle
  have hexec := exec_eq_runPlanned hi s
  have hseq := (exec_effect i s hexec).seq
  rw [hexec, ticks_startOperation, setSeq_self (hseq.trans hidle)]

/-! ### Two runs that nothing the block reads tells apart -/

/-- Two runs, from `s` and from `s'`, have reached `t` and `t'`, which the block cannot tell apart, with the same
actions added to the traces and no answer given yet. -/
structure Alike (s s' t t' : State) : Prop where
  same : t.SameForTheBlock t'
  res : t.results = s.results
  res' : t'.results = s'.results
  tr : ∃ added, t.trace = s.trace ++ added ∧ t'.trace = s'.trace ++ added

/-- Two runs at their beginning. -/
theorem Alike.refl {s s' : State} (h : s.SameForTheBlock s') : Alike s s' s s' := ⟨h, rfl, rfl, [], by simp⟩

/-- Two runs go on with the same action. -/
theorem Alike.act {s s' t t' u u' : State} (h : Alike s s' t t') (a : Action) (same : u.SameForTheBlock u')
    (res : u.results = t.results ∧ u'.results = t'.results)
    (tr : u.trace = t.trace ++ [a] ∧ u'.trace = t'.trace ++ [a]) : Alike s s' u u' := by
  obtain ⟨added, htr, htr'⟩ := h.tr
  exact ⟨same, res.1.trans h.res, res.2.trans h.res', added ++ [a], by rw [tr.1, htr, List.append_assoc],
    by rw [tr.2, htr', List.append_assoc]⟩

/-- What is known of the controller does not tell two runs apart. -/
theorem Alike.setController {s s' t t' : State} (h : Alike s s' t t') (c c' : ControllerBus) :
    Alike s s' (t.setController c) (t'.setController c') :=
  ⟨h.same, h.res, h.res', h.tr⟩

section
variable {s s' t t' : State} (h : Alike s s' t t')
include h

/-- A write goes alike in both runs. -/
theorem alike_i2cWrite (bytes : List Byte) :
    (i2cWrite bytes t).1 = (i2cWrite bytes t').1 ∧
      Alike s s' (i2cWrite bytes t).2 (i2cWrite bytes t').2 := by
  obtain ⟨hcfg, hbl, henv⟩ := h.same
  rcases EnvAnswer.ok_or_fail t.env.answer with ⟨s0, s1, e⟩ | ⟨k, e⟩
  · rw [i2cWrite_ok e, i2cWrite_ok (henv ▸ e)]
    exact ⟨rfl, h.act (.write t.cfg.i2cAddr bytes true)
      (by simp [State.SameForTheBlock, hcfg, hbl, henv]) (by simp) (by simp [hcfg])⟩
  · rw [i2cWrite_fail e, i2cWrite_fail (henv ▸ e)]
    exact ⟨rfl, h.act (.write t.cfg.i2cAddr bytes false)
      (by simp [State.SameForTheBlock, hcfg, hbl, henv]) (by simp) (by simp [hcfg])⟩

/-- A write of strobe pairs goes alike in both runs. -/
theorem alike_strobedWrite (reach : Option ControllerBus) (bytes : List Byte) :
    (strobedWrite reach bytes t).1 = (strobedWrite reach bytes t').1 ∧
      Alike s s' (strobedWrite reach bytes t).2 (strobedWrite reach bytes t').2 := by
  obtain ⟨hok, hrun⟩ := alike_i2cWrite h bytes
  unfold strobedWrite
  rcases e : i2cWrite bytes t with ⟨ok, u⟩
  rcases e' : i2cWrite bytes t' with ⟨ok', u'⟩
  rw [e, e'] at hok hrun
  obtain rfl : ok = ok' := hok
  cases ok with
  | false => exact ⟨rfl, hrun.setController _ _⟩
  | true =>
    cases reach with
    | none => exact ⟨rfl, hrun⟩
    | some c => exact ⟨rfl, hrun.setController c c⟩

/-- A read transaction goes alike in both runs. -/
theorem alike_readTransaction (ops : List BusOp) :
    (readTransaction ops t).1 = (readTransaction ops t').1 ∧
      Alike s s' (readTransaction ops t).2 (readTransaction ops t').2 := by
  obtain ⟨hcfg, hbl, henv⟩ := h.same
  rcases EnvAnswer.ok_or_fail t.env.answer with ⟨s0, s1, e⟩ | ⟨k, e⟩
  · rw [readTransaction_ok e, readTransaction_ok (henv ▸ e)]
    exact ⟨by rw [hcfg], h.act (.transaction t.cfg.i2cAddr ops (some [[s0], [s1]]))
      (by simp [State.SameForTheBlock, hcfg, hbl, henv]) (by simp) (by simp [hcfg])⟩
  · rw [readTransaction_fail e, readTransaction_fail (henv ▸ e)]
    exact ⟨rfl, h.act (.transaction t.cfg.i2cAddr ops none)
      (by simp [State.SameForTheBlock, hcfg, hbl, henv]) (by simp) (by simp [hcfg])⟩

/-- A planned action goes alike in both runs. -/
theorem alike_perform (a : Planned) :
    (perform a t).1 = (perform a t').1 ∧ Alike s s' (perform a t).2 (perform a t').2 := by
  cases a with
  | strobed bytes reach =>
    obtain ⟨hok, hrun⟩ := alike_strobedWrite h reach bytes
    rw [perform_strobed, perform_strobed, hok]
    exact ⟨rfl, hrun⟩
  | idle byte =>
    obtain ⟨hok, hrun⟩ := alike_i2cWrite h [byte]
    rw [perform_idle, perform_idle, hok]
    exact ⟨rfl, hrun⟩
  | read ops =>
    obtain ⟨hok, hrun⟩ := alike_readTransaction h ops
    rw [perform_read, perform_read, hok]
    exact ⟨rfl, hrun⟩
  | delay us => exact ⟨rfl, h.act (.delay us) h.same ⟨rfl, rfl⟩ ⟨rfl, rfl⟩⟩

/-- A list of planned actions goes alike in both runs. -/
theorem alike_runPlanned (l : List Planned) :
    (runPlanned l t).1 = (runPlanned l t').1 ∧ (runPlanned l t).2.1 = (runPlanned l t').2.1 ∧
      Alike s s' (runPlanned l t).2.2 (runPlanned l t').2.2 := by
  induction l generalizing t t' with
  | nil => exact ⟨rfl, rfl, h⟩
  | cons a rest ih =>
    obtain ⟨hfst, hrun⟩ := alike_perform h a
    rcases e : perform a t with ⟨o, u⟩
    rcases e' : perform a t' with ⟨o', u'⟩
    rw [e, e'] at hfst hrun
    obtain rfl : o = o' := hfst
    cases o with
    | none =>
      rw [runPlanned_cons_none e, runPlanned_cons_none e']
      exact ⟨rfl, rfl, hrun⟩
    | some bytes =>
      obtain ⟨hok, hvs, hrest⟩ := ih hrun
      rw [runPlanned_cons_some e, runPlanned_cons_some e', hvs]
      exact ⟨hok, rfl, hrest⟩

end

@[simp] theorem prologue_cfg (op : Instr) (s : State) : (prologue op s).cfg = s.cfg := by
  cases op <;> rfl

@[simp] theorem prologue_bl (op : Instr) (s : State) : (prologue op s).bl = blAfter op s := by
  cases op <;> rfl

@[simp] theorem prologue_env (op : Instr) (s : State) : (prologue op s).env = s.env := by
  cases op <;> rfl

@[simp] theorem prologue_results (op : Instr) (s : State) : (prologue op s).results = s.results := by
  cases op <;> rfl

@[simp] theorem prologue_trace (op : Instr) (s : State) : (prologue op s).trace = s.trace := by
  cases op <;> rfl

@[simp] theorem epilogue_bl (op : Instr) (received : List Byte) (s : State) :
    (epilogue op received s).bl = s.bl := by
  cases op <;> rfl

@[simp] theorem epilogue_env (op : Instr) (received : List Byte) (s : State) :
    (epilogue op received s).env = s.env := by
  cases op <;> rfl

@[simp] theorem epilogue_trace (op : Instr) (received : List Byte) (s : State) :
    (epilogue op received s).trace = s.trace := by
  cases op <;> rfl

/-- The value an operation returns: for ENCODE and DECODE what they compute, for the two receives the bytes received. -/
def returnValue (op : Instr) (p : Params) (received : List Byte) : List Byte :=
  match op with
  | .encode rs rnw bl data => encodeFrame p.pinMap rs rnw bl data
  | .decode sample0 sample1 => [decodeData p.pinMap sample0 sample1]
  | .receiveByte _ => received
  | .receiveBytes _ _ => received
  | _ => []

/-- An operation that returns answers `Ok` with its value, once. -/
theorem epilogue_results {op : Instr} (hop : op.isOperation = true) (received : List Byte) (s : State) :
    (epilogue op received s).results = s.results ++ [⟨.ok, returnValue op s.cfg received⟩] := by
  cases op
  case strobeHighByte => cases hop
  case strobeLowByte => cases hop
  case idleByte => cases hop
  all_goals rfl

/-- What an operation plans depends on the configuration and `BL` alone. -/
theorem plannedActions_congr (op : Instr) {s s' : State} (hcfg : s.cfg = s'.cfg) (hbl : s.bl = s'.bl) :
    plannedActions op s = plannedActions op s' := by
  unfold plannedActions
  rw [hcfg, hbl]

/-- Two runs are alike after the prologue of the same operation. -/
theorem alike_prologue (op : Instr) {s s' : State} (h : s.SameForTheBlock s') :
    Alike s s' (prologue op s) (prologue op s') := by
  obtain ⟨hcfg, hbl, henv⟩ := h
  refine ⟨⟨by simp [hcfg], ?_, by simp [henv]⟩, prologue_results op s, prologue_results op s', [], by simp⟩
  rw [prologue_bl, prologue_bl]
  unfold blAfter
  rw [hbl]

/-- An operation whose planned actions go alike in two runs adds the same actions and the same answer in both, and
leaves states the block cannot tell apart. -/
theorem alike_conclude {op : Instr} (hop : op.isOperation = true) {s s' : State} {r r' : Bool × List Byte × State}
    (h : r.1 = r'.1 ∧ r.2.1 = r'.2.1 ∧ Alike s s' r.2.2 r'.2.2) :
    (conclude op [] r).SameForTheBlock (conclude op [] r') ∧
      ∃ (added : List Action) (answer : Response),
        (conclude op [] r).trace = s.trace ++ added ∧ (conclude op [] r').trace = s'.trace ++ added ∧
        (conclude op [] r).results = s.results ++ [answer] ∧
        (conclude op [] r').results = s'.results ++ [answer] := by
  obtain ⟨ok, bytes, t⟩ := r
  obtain ⟨ok', bytes', t'⟩ := r'
  dsimp only at h
  obtain ⟨rfl, rfl, ⟨hcfg, hbl, henv⟩, hres, hres', added, htr, htr'⟩ := h
  cases ok with
  | false =>
    exact ⟨⟨hcfg, hbl, henv⟩, added, ⟨.transportError, bytes⟩, htr, htr', by simp [conclude, hres],
      by simp [conclude, hres']⟩
  | true =>
    refine ⟨by simp [conclude, State.SameForTheBlock, hcfg, hbl, henv], added, ⟨.ok, returnValue op t.cfg bytes⟩,
      by simp [conclude, htr], by simp [conclude, htr'], ?_, ?_⟩
    · simp [conclude, epilogue_results hop, hres]
    · simp [conclude, epilogue_results hop, hres', hcfg]

/-- Settles O31: both runs perform the same list of planned actions, each of which goes alike, and end alike. -/
theorem operationsDoNotReadGhostOrPort : Obligations.OperationsDoNotReadGhostOrPort := by
  intro i s s' t t' hi ⟨hcfg, hbl, henv⟩ ht ht'
  rw [exec_eq_runPlanned hi] at ht ht'
  rw [← plannedActions_congr i hcfg hbl] at ht'
  cases ht
  cases ht'
  exact alike_conclude hi (alike_runPlanned (alike_prologue i ⟨hcfg, hbl, henv⟩) (plannedActions i s))

end Sys2Proof.Machine
end

section
/-! The memory family (spec/20_memory.md): the invariant every step keeps, the fields of a status byte (R53), the write
primitive (R44, R49) and the falls of EN (R51, R56, R58) at the port, and what is presented next (R41). What a planned
action does to the wires is said once, in `perform_wires_of_ok` and `perform_controller_of_fail`; lists of them and whole
operations follow by `exec_eq_runPlanned`. -/

namespace Sys2Proof.Machine

/-! ### The shapes of what the block writes -/

/-- The bits of a role in an exclusive or. -/
theorem roleBit_xor (m : PinMap) (r : Role) (a b : Byte) :
    roleBit m r (a ^^^ b) = (roleBit m r a ^^ roleBit m r b) := by
  simp [roleBit]

/-- The EN bit alone is the port byte with only EN. -/
theorem bitAt_en_eq_port (m : PinMap) : bitAt m.en true = port m false false true false 0#4 := by
  simp [port, bitAt]

section
variable {m : PinMap} (h : m.wf = true)
include h

/-- A port byte with EN and the same byte without it differ in EN alone. -/
theorem isStrobePair_port (rs rnw bl : Bool) (n : Nibble) :
    isStrobePair m (port m rs rnw true bl n) (port m rs rnw false bl n) = true := by
  have hxor : port m rs rnw true bl n ^^^ port m rs rnw false bl n = bitAt m.en true := by
    rw [bitAt_en_eq_port]
    refine byte_ext_roles h fun r => ?_
    rw [roleBit_xor, roleBit_port h, roleBit_port h, roleBit_port h]
    cases r <;> simp [roleValue]
  simp [isStrobePair, hxor, roleBit_port h, roleValue]

/-- A write frame is legal whole. -/
theorem legalWrite_encodeFrame (rs bl : Bool) (data : Byte) :
    legalWrite m (encodeFrame m rs false bl data) = true := by
  simp [encodeFrame, legalWrite, isStrobePair_port h, sameControlRoles, roleBit_port h, roleValue]

/-- The idle byte is legal alone. -/
theorem legalWrite_idlePortByte (on : Bool) : legalWrite m [idlePortByte m on] = true := by
  simp [legalWrite, idlePortByte, roleBit_port h, roleValue]

end

/-- The half frame of INITIALIZE is legal. -/
theorem legalWrite_initHalfFrame {p : Params} (h : p.pinMap.wf = true) (bl : Bool) :
    legalWrite p.pinMap (initHalfFrame p bl) = true := by
  simp [initHalfFrame, slice, encodeFrame, legalWrite, isStrobePair_port h, roleBit_port h, roleValue]

/-- With `INIT_FINAL_LEN = 4` the last write of INITIALIZE is a whole frame. -/
theorem initFinalFrame_eq {p : Params} (h : p.initFinalLen = 4) (bl lineMode fontMode : Bool) :
    initFinalFrame p bl lineMode fontMode =
      encodeFrame p.pinMap false false bl (functionSet4 p.cmdFs4 lineMode fontMode) := by
  rw [initFinalFrame, h]
  rfl

/-- The read transactions of RECEIVE_BYTE are legal. -/
theorem legalTransaction_readOps (p : Params) (bl rs : Bool) : legalTransaction p (readOps p bl rs) = true := by
  cases bl <;> cases rs <;> simp [legalTransaction]

/-- Every action an instruction adds to the trace is legal. -/
theorem exec_trace_legal {i : Instr} {s t : State} (hmap : s.cfg.pinMap.wf = true) (hlen : s.cfg.initFinalLen = 4)
    (h : exec i s = .next t) : ∃ added, t.trace = s.trace ++ added ∧ ∀ a ∈ added, a.legal s.cfg = true := by
  obtain ⟨u, hu, effect⟩ := exec_effect_of (fun a => a.legal s.cfg = true) i s _ rfl
    (fun ok _ => by simp [Action.legal, legalWrite_initHalfFrame hmap])
    (fun l f ok _ => by simp [Action.legal, initFinalFrame_eq hlen, legalWrite_encodeFrame hmap])
    (fun u => rfl)
    (fun rs b ok => by simp [Action.legal, legalWrite_encodeFrame hmap])
    (fun rs o _ ho => by simp [Action.legal, legalTransaction_readOps, ho])
    (fun ok => by simp [Action.legal, legalWrite_idlePortByte hmap])
  rw [h] at hu
  cases hu
  obtain ⟨added, htrace, -, hlegal, -⟩ := effect.tr
  exact ⟨added, htrace, hlegal⟩

/-! ### What a planned action does to the wires -/

/-- The bytes a planned action puts on the port where it succeeds. -/
@[simp] def Planned.bytes : Planned → List Byte
  | .strobed bytes _ => bytes
  | .idle byte => [byte]
  | .read ops => writtenBytes ops
  | .delay _ => []

/-- What the source says the controller is after a planned action, where it says so. -/
@[simp] def Planned.reach : Planned → Option ControllerBus
  | .strobed _ reach => reach
  | .idle _ => none
  | .read _ => none
  | .delay _ => none

/-- What arrives at the port does not depend on the environment's further answers. -/
@[simp] theorem driveAll_setEnv (e : Environment) (bs : List Byte) (s : State) :
    (s.setEnv e).driveAll bs = (s.driveAll bs).setEnv e := by
  induction bs generalizing s with
  | nil => rfl
  | cons b bs ih => exact ih (s.drive b)

/-- A planned action that succeeds leaves the port, and the controller where nothing more is said of it, as its bytes
leave them. -/
theorem perform_wires_of_ok {a : Planned} {s t : State} {received : List Byte}
    (h : perform a s = (some received, t)) (hreach : a.reach = none) :
    t.port = (s.driveAll a.bytes).port ∧ t.controller = (s.driveAll a.bytes).controller := by
  rcases EnvAnswer.ok_or_fail s.env.answer with ⟨s0, s1, e⟩ | ⟨k, e⟩
  · cases a with
    | strobed bytes reach =>
      obtain rfl : reach = none := hreach
      rw [perform_strobed, strobedWrite_ok e] at h
      cases h
      simp
    | idle byte =>
      rw [perform_idle, i2cWrite_ok e] at h
      cases h
      simp
    | read ops =>
      rw [perform_read, readTransaction_ok e] at h
      cases h
      simp
    | delay us =>
      cases h
      exact ⟨rfl, rfl⟩
  · cases a with
    | strobed bytes reach => simp [strobedWrite_fail e, writeReceived] at h
    | idle byte => simp [i2cWrite_fail e, writeReceived] at h
    | read ops => simp [readTransaction_fail e] at h
    | delay us =>
      cases h
      exact ⟨rfl, rfl⟩

/-- After a planned action that fails nothing is known of the controller, unless it is the idle byte, which leaves the
controller as the bytes that arrived leave it. -/
theorem perform_controller_of_fail {a : Planned} {s t : State} (h : perform a s = (none, t)) :
    t.controller = .unknown ∨
      ∃ byte bs, a = .idle byte ∧ t.controller = (s.driveAll bs).controller := by
  rcases EnvAnswer.ok_or_fail s.env.answer with ⟨s0, s1, e⟩ | ⟨k, e⟩
  · cases a with
    | strobed bytes reach =>
      cases reach with
      | none => simp [strobedWrite_ok e, writeReceived] at h
      | some c => simp [strobedWrite_reach e, writeReceived] at h
    | idle byte => simp [i2cWrite_ok e, writeReceived] at h
    | read ops => simp [readTransaction_ok e] at h
    | delay us => cases h
  · cases a with
    | strobed bytes reach =>
      rw [perform_strobed, strobedWrite_fail e] at h
      cases h
      exact .inl rfl
    | idle byte =>
      rw [perform_idle, i2cWrite_fail e] at h
      cases h
      exact .inr ⟨byte, [byte].take k, rfl, by simp⟩
    | read ops =>
      rw [perform_read, readTransaction_fail e] at h
      cases h
      exact .inl rfl
    | delay us => cases h

/-- The end of an operation leaves the wires. -/
theorem epilogue_wires (op : Instr) (received : List Byte) (s : State) :
    (epilogue op received s).port = s.port ∧ (epilogue op received s).controller = s.controller := by
  cases op <;> exact ⟨rfl, rfl⟩

/-- However an operation ends, its end leaves the wires. -/
theorem conclude_wires (op : Instr) (received : List Byte) (r : Bool × List Byte × State) :
    (conclude op received r).port = r.2.2.port ∧ (conclude op received r).controller = r.2.2.controller := by
  rcases r with ⟨_ | _, bytes, t⟩
  · exact ⟨rfl, rfl⟩
  · exact epilogue_wires op _ t

/-- The beginning of an operation leaves the wires. -/
theorem prologue_wires (op : Instr) (s : State) :
    (prologue op s).port = s.port ∧ (prologue op s).controller = s.controller := by
  cases op <;> exact ⟨rfl, rfl⟩

/-- An instruction that is no operation is a byte on its way to the port. -/
theorem exec_portByte {i : Instr} (hi : i.isOperation = false) (s : State) : ∃ b, exec i s = .next (s.drive b) := by
  cases i
  case strobeHighByte => exact ⟨_, rfl⟩
  case strobeLowByte => exact ⟨_, rfl⟩
  case idleByte => exact ⟨_, rfl⟩
  all_goals cases hi

/-! ### When the controller is known to be in 4-bit mode -/

/-- A byte at the port does not change the controller's bus mode. -/
theorem isFourBit_drive (b : Byte) (s : State) :
    (s.drive b).controller.isFourBit = s.controller.isFourBit := by
  rw [State.drive_controller]
  split <;> simp

/-- Nor do several. -/
@[simp] theorem isFourBit_driveAll (bs : List Byte) (s : State) :
    (s.driveAll bs).controller.isFourBit = s.controller.isFourBit := by
  induction bs generalizing s with
  | nil => rfl
  | cons b bs ih => exact (ih (s.drive b)).trans (isFourBit_drive b s)

/-- A planned action of which the source says nothing does not bring the controller into 4-bit mode. -/
theorem isFourBit_of_perform {a : Planned} {s : State} (hreach : a.reach = none)
    (h : (perform a s).2.controller.isFourBit = true) : s.controller.isFourBit = true := by
  rcases e : perform a s with ⟨_ | received, t⟩ <;> rw [e] at h
  · obtain hc | ⟨byte, bs, -, hc⟩ := perform_controller_of_fail e <;> rw [hc] at h
    · cases h
    · simpa using h
  · rw [(perform_wires_of_ok e hreach).2] at h
    simpa using h

/-- Nor does a list of them. -/
theorem isFourBit_of_runPlanned {l : List Planned} (hreach : ∀ a ∈ l, a.reach = none) {s : State}
    (h : (runPlanned l s).2.2.controller.isFourBit = true) : s.controller.isFourBit = true := by
  induction l generalizing s with
  | nil => exact h
  | cons a rest ih =>
    obtain ⟨ha, hrest⟩ := List.forall_mem_cons.1 hreach
    apply isFourBit_of_perform ha
    rcases e : perform a s with ⟨_ | received, t⟩
    · rwa [runPlanned_cons_none e] at h
    · rw [runPlanned_cons_some e] at h
      exact ih hrest h

/-- After a list without an idle byte that fails nothing is known of the controller. -/
theorem controller_runPlanned_of_fail {l : List Planned} (hidle : ∀ a ∈ l, ∀ byte, a ≠ .idle byte) {s : State}
    (h : (runPlanned l s).1 = false) : (runPlanned l s).2.2.controller = .unknown := by
  induction l generalizing s with
  | nil => cases h
  | cons a rest ih =>
    obtain ⟨ha, hrest⟩ := List.forall_mem_cons.1 hidle
    rcases e : perform a s with ⟨_ | received, t⟩
    · rw [runPlanned_cons_none e]
      exact (perform_controller_of_fail e).resolve_right fun ⟨byte, _, hbyte, _⟩ => ha byte hbyte
    · rw [runPlanned_cons_some e] at h ⊢
      exact ih hrest h

/-- Only the handshake of INITIALIZE brings the controller into a bus mode. -/
theorem reach_plannedActions {i : Instr} (hi : ∀ l f, i ≠ .initialise l f) (s : State) :
    ∀ a ∈ plannedActions i s, a.reach = none := by
  cases i with
  | initialise l f => exact absurd rfl (hi l f)
  | sendBytes rs n bytes =>
    intro a ha
    obtain ⟨b, -, rfl⟩ := List.mem_map.1 ha
    rfl
  | receiveBytes rs n =>
    intro a ha
    obtain ⟨-, rfl⟩ := List.mem_replicate.1 ha
    rfl
  | _ => simp [plannedActions]

/-- An INITIALIZE leaves the controller in 4-bit mode only where it succeeds and sets `INITIALIZED`. -/
theorem booted_of_initialise {lineMode fontMode : Bool} {s t : State}
    (h : exec (.initialise lineMode fontMode) s = .next t) (h4 : t.controller.isFourBit = true) : t.Booted := by
  rw [exec_eq_runPlanned rfl] at h
  cases h
  rw [(conclude_wires ..).2] at h4
  rcases e : runPlanned (plannedActions (.initialise lineMode fontMode) s)
    (prologue (.initialise lineMode fontMode) s) with ⟨_ | _, bytes, u⟩
  · rw [controller_runPlanned_of_fail (by simp [plannedActions]) (by rw [e])] at h4
    cases h4
  · rfl

/-- Every other instruction finds the controller in 4-bit mode where it leaves it there. -/
theorem isFourBit_of_exec {i : Instr} (hi : ∀ l f, i ≠ .initialise l f) {s t : State} (h : exec i s = .next t)
    (h4 : t.controller.isFourBit = true) : s.controller.isFourBit = true := by
  cases hop : i.isOperation with
  | false =>
    obtain ⟨b, hb⟩ := exec_portByte hop s
    rw [hb] at h
    cases h
    rwa [isFourBit_drive] at h4
  | true =>
    rw [exec_eq_runPlanned hop] at h
    cases h
    rw [(conclude_wires ..).2] at h4
    rw [← (prologue_wires i s).2]
    exact isFourBit_of_runPlanned (reach_plannedActions hi s) h4

/-- The boot clause of the invariant: every instruction keeps it. -/
theorem exec_keeps_boot {i : Instr} {s t : State} (hs : s.controller.isFourBit = true → s.Booted)
    (h : exec i s = .next t) (h4 : t.controller.isFourBit = true) : t.Booted := by
  by_cases hi : ∃ l f, i = .initialise l f
  · obtain ⟨l, f, rfl⟩ := hi
    exact booted_of_initialise h h4
  · have hi : ∀ l f, i ≠ .initialise l f := fun l f e => hi ⟨l, f, e⟩
    exact ((exec_effect i s h).ini hi).trans (hs (isFourBit_of_exec hi h h4))

/-! ### The invariant -/

/-- The PinMap of a valid configuration is valid. -/
theorem Params.pinMap_wf {p : Params} (h : p.wf = true) : p.pinMap.wf = true := by
  simp only [Params.wf, Bool.and_eq_true] at h
  obtain ⟨⟨hmap, -⟩, -⟩ := h
  exact hmap

/-- Every instruction keeps the invariant. -/
theorem exec_keeps_inv {i : Instr} {s t : State} (hs : s.Inv) (h : exec i s = .next t) : t.Inv := by
  obtain ⟨hwf, hlen, hseq, htrace, hboot⟩ := hs
  have effect := exec_effect i s h
  obtain ⟨added, hadded, hlegal⟩ := exec_trace_legal (Params.pinMap_wf hwf) hlen h
  refine ⟨effect.cfg ▸ hwf, effect.cfg ▸ hlen, effect.seq.trans hseq, ?_, exec_keeps_boot hboot h⟩
  rw [effect.cfg, hadded, List.all_append, htrace, Bool.true_and, List.all_eq_true]
  exact hlegal

/-- Settles O45: between operations a step does nothing, or performs the instruction presented, which keeps the
invariant. -/
theorem stepKeepsInvariant : Obligations.StepKeepsInvariant := by
  intro s t hs h
  obtain ⟨op, rest, received, hrun, -⟩ | ⟨-, -, rfl⟩ | ⟨r, rest, i, -, -, -, hexec⟩ := step_next_cases h
  · obtain ⟨-, -, hseq, -, -⟩ := hs
    rw [hseq] at hrun
    cases hrun
  · exact hs
  · exact exec_keeps_inv (s := s.setRequests rest) hs hexec

/-! ### The status byte -/

/-- Bit `k` of the high nibble of a decoded byte is from the first sample, bit `k` of the low nibble from the second. -/
theorem getLsbD_decodeData (m : PinMap) (s0 s1 : Byte) {k : Nat} (hk : k < 4) :
    (decodeData m s0 s1).getLsbD k = (nib m s1).getLsbD k ∧
      (decodeData m s0 s1).getLsbD (k + 4) = (nib m s0).getLsbD k :=
  joinNibbles_getLsbD _ _ k hk

/-- The address counter is the low seven bits. -/
theorem getLsbD_addressCounter (v : Byte) {k : Nat} (hk : k < 7) : (addressCounter v).getLsbD k = v.getLsbD k := by
  simp [addressCounter, hk]

/-- A RECEIVE_BYTE answered `ok` (R126): its transaction, and the byte of the two samples for the host. -/
theorem exec_receiveByte_of_ok {s : State} {s0 s1 : Byte} (h : s.env.answer = .ok s0 s1) (rs : Bool) :
    exec (.receiveByte rs) s =
      .next ((((s.setEnv s.env.next).driveAll (writtenBytes (readOps s.cfg s.bl rs))).record
        (.transaction s.cfg.i2cAddr (readOps s.cfg s.bl rs) (some [[s0], [s1]]))).answerOk
          [decodeData s.cfg.pinMap s0 s1]) := by
  simp only [exec, execReceiveByte, receiveOne, readTransaction_ok h]

/-- Settles O23: the fields are bits of the decoded byte, and each is a bit of one sample. -/
theorem statusByteFields : Obligations.StatusByteFields := by
  intro s0 s1 s h
  obtain ⟨h4, h5, h6, h7⟩ := nib_getLsbD s.cfg.pinMap s0
  obtain ⟨l4, l5, l6, l7⟩ := nib_getLsbD s.cfg.pinMap s1
  have bit (k : Nat) (hk : k < 4) := getLsbD_decodeData s.cfg.pinMap s0 s1 hk
  have ac (k : Nat) (hk : k < 7) := getLsbD_addressCounter (decodeData s.cfg.pinMap s0 s1) hk
  refine ⟨_, decodeData s.cfg.pinMap s0 s1, exec_receiveByte_of_ok h false, by simp, ?_, ?_, ?_, ?_, ?_, ?_, ?_, ?_⟩
  · exact (bit 3 (by decide)).2.trans h7
  · exact (ac 6 (by decide)).trans ((bit 2 (by decide)).2.trans h6)
  · exact (ac 5 (by decide)).trans ((bit 1 (by decide)).2.trans h5)
  · exact (ac 4 (by decide)).trans ((bit 0 (by decide)).2.trans h4)
  · exact (ac 3 (by decide)).trans ((bit 3 (by decide)).1.trans l7)
  · exact (ac 2 (by decide)).trans ((bit 2 (by decide)).1.trans l6)
  · exact (ac 1 (by decide)).trans ((bit 1 (by decide)).1.trans l5)
  · exact (ac 0 (by decide)).trans ((bit 0 (by decide)).1.trans l4)

/-! ### The port -/

/-- The next answer, where the next one is `ok`. -/
theorem Environment.answer_of_allOk_one {e : Environment} (h : e.allOk 1 = true) :
    ∃ s0 s1, e.answer = .ok s0 s1 := by
  simpa [Environment.allOk_succ, Environment.allOk_zero, EnvAnswer.isOk_iff] using h

/-- Settles O32: the port holds the last byte that arrived. -/
theorem writePrimitiveAndThePort : Obligations.WritePrimitiveAndThePort := by
  intro bytes b s
  constructor
  · intro hok
    obtain ⟨s0, s1, h⟩ := Environment.answer_of_allOk_one hok
    exact ⟨_, i2cWrite_ok h _, driveAll_port_append bytes b _, by simp⟩
  · intro reached h
    exact ⟨_, i2cWrite_fail h bytes, driveAll_port_mem (bytes.take reached) (s.setEnv s.env.next), by simp⟩

/-- A SEND_BYTE answered `ok` (R124): its frame, in one write. -/
theorem exec_sendByte_of_ok {s : State} {s0 s1 : Byte} (h : s.env.answer = .ok s0 s1) (rs : Bool) (data : Byte) :
    exec (.sendByte rs data) s =
      .next ((((s.setEnv s.env.next).driveAll (encodeFrame s.cfg.pinMap rs false s.bl data)).record
        (.write s.cfg.i2cAddr (encodeFrame s.cfg.pinMap rs false s.bl data) true)).answerOk []) := by
  simp only [exec, execSendByte, sendFrame, strobedWrite_ok h, finish_true, sendFrameBytes_eq]

/-- A full frame on the port, with nothing after it. -/
theorem driveAll_encodeFrame_alone {s : State} (h : s.cfg.pinMap.wf = true) (rs rnw bl : Bool) (data : Byte) :
    s.driveAll (encodeFrame s.cfg.pinMap rs rnw bl data) =
      { s with
        port := port s.cfg.pinMap rs rnw false bl (loNibble data)
        strobes := s.strobes ++ frameStrobes s.cfg.pinMap rs rnw bl data } := by
  simpa using driveAll_encodeFrame h rs rnw bl data []

/-- Settles O33: the bytes of a SEND_BYTE are a frame, which strobes twice. -/
theorem sendByteStrobesHighThenLow : Obligations.SendByteStrobesHighThenLow := by
  intro rs data s hmap hok
  obtain ⟨s0, s1, h⟩ := Environment.answer_of_allOk_one hok
  have hstrobes : ((s.setEnv s.env.next).driveAll (encodeFrame s.cfg.pinMap rs false s.bl data)).strobes =
      s.strobes ++ frameStrobes s.cfg.pinMap rs false s.bl data := by
    rw [driveAll_setEnv, driveAll_encodeFrame_alone hmap, State.setEnv_strobes]
  refine ⟨_, _, _, exec_sendByte_of_ok h rs data, hstrobes, ?_, ?_, ?_⟩
  · refine List.forall_mem_cons.2 ⟨?_, List.forall_mem_singleton.2 ?_⟩ <;>
      exact ⟨isStrobePair_port hmap .., roleBit_port hmap (r := .rs) .., roleBit_port hmap (r := .rnw) ..⟩
  · exact nib_port hmap ..
  · exact nib_port hmap ..

/-! ### The nibble-pair boundary -/

/-- Bytes that, from a port with EN low, leave the controller as it was and EN low. -/
def KeepsBoundary (p : Params) (bs : List Byte) : Prop :=
  ∀ s : State, s.cfg = p → roleBit p.pinMap .en s.port = false →
    (s.driveAll bs).controller = s.controller ∧ roleBit p.pinMap .en (s.driveAll bs).port = false

/-- No byte. -/
theorem keepsBoundary_nil (p : Params) : KeepsBoundary p [] := fun _ _ hen => ⟨rfl, hen⟩

section
variable {p : Params} (h : p.pinMap.wf = true)
include h

/-- A frame: two strobes. -/
theorem keepsBoundary_sendFrameBytes (bl rs : Bool) (data : Byte) :
    KeepsBoundary p (sendFrameBytes p bl rs data) := by
  rintro s rfl -
  rw [sendFrameBytes_eq, driveAll_encodeFrame_alone h]
  exact ⟨rfl, roleBit_port h ..⟩

/-- The written bytes of a read transaction: two strobes. -/
theorem keepsBoundary_readOps (bl rs : Bool) : KeepsBoundary p (writtenBytes (readOps p bl rs)) := by
  rintro s rfl -
  have read := driveAll_readOps (s := s) h bl rs []
  simp only [List.append_nil, driveAll_nil] at read
  rw [read]
  exact ⟨rfl, roleBit_port h ..⟩

/-- The idle byte: no fall of EN. -/
theorem keepsBoundary_idlePortByte (on : Bool) : KeepsBoundary p [idlePortByte p.pinMap on] := by
  rintro s rfl hen
  exact ⟨by simp [enableFalls, hen], roleBit_port h ..⟩

end

/-- Each planned action of an operation but INITIALIZE keeps the boundary. -/
theorem keepsBoundary_plannedActions {i : Instr} (hi : ∀ l f, i ≠ .initialise l f) {s : State}
    (h : s.cfg.pinMap.wf = true) : ∀ a ∈ plannedActions i s, KeepsBoundary s.cfg a.bytes := by
  cases i with
  | initialise l f => exact absurd rfl (hi l f)
  | sendByte rs data => exact List.forall_mem_singleton.2 (keepsBoundary_sendFrameBytes h s.bl rs data)
  | sendBytes rs n bytes =>
    intro a ha
    obtain ⟨b, -, rfl⟩ := List.mem_map.1 ha
    exact keepsBoundary_sendFrameBytes h s.bl rs b
  | receiveByte rs => exact List.forall_mem_singleton.2 (keepsBoundary_readOps h s.bl rs)
  | receiveBytes rs n =>
    intro a ha
    obtain ⟨-, rfl⟩ := List.mem_replicate.1 ha
    exact keepsBoundary_readOps h s.bl rs
  | setBacklight on => exact List.forall_mem_singleton.2 (keepsBoundary_idlePortByte h on)
  | delay us => exact List.forall_mem_singleton.2 (keepsBoundary_nil s.cfg)
  | _ => exact List.forall_mem_nil _

/-- Planned actions that keep the boundary, and all succeed, keep it together. -/
theorem runPlanned_keepsBoundary {p : Params} {l : List Planned}
    (hl : ∀ a ∈ l, a.reach = none ∧ KeepsBoundary p a.bytes) {s : State} (hcfg : s.cfg = p)
    (hen : roleBit p.pinMap .en s.port = false) (hok : (runPlanned l s).1 = true) :
    (runPlanned l s).2.2.controller = s.controller ∧
      roleBit p.pinMap .en (runPlanned l s).2.2.port = false := by
  induction l generalizing s with
  | nil => exact ⟨rfl, hen⟩
  | cons a rest ih =>
    obtain ⟨⟨hreach, hkeeps⟩, hrest⟩ := List.forall_mem_cons.1 hl
    have hcfg' := perform_cfg a s
    rcases e : perform a s with ⟨_ | received, t⟩
    · rw [runPlanned_cons_none e] at hok
      cases hok
    · rw [runPlanned_cons_some e] at hok ⊢
      rw [e] at hcfg'
      obtain ⟨hport, hctrl⟩ := perform_wires_of_ok e hreach
      obtain ⟨hsame, hlow⟩ := hkeeps s hcfg hen
      obtain ⟨hsame', hlow'⟩ := ih hrest (hcfg'.trans hcfg) (by rwa [hport]) hok
      exact ⟨hsame'.trans (hctrl.trans hsame), hlow'⟩

/-- An operation that answers `Ok` has performed all its planned actions. -/
theorem runPlanned_of_answer_ok {op : Instr} {s : State} {r : Bool × List Byte × State}
    (hres : r.2.2.results = s.results) (h : ∃ v, (conclude op [] r).results = s.results ++ [⟨.ok, v⟩]) :
    r.1 = true := by
  obtain ⟨v, hv⟩ := h
  rcases r with ⟨_ | _, bytes, t⟩
  · simp [conclude, show t.results = s.results from hres] at hv
  · rfl

/-- Settles O35: a frame and a read transaction are two strobes each, the idle byte is none, and an operation but
INITIALIZE is made of these. -/
theorem completedOperationsKeepNibbleBoundary : Obligations.CompletedOperationsKeepNibbleBoundary := by
  intro i s t half hmap hop hi hhalf hen h hok
  rw [exec_eq_runPlanned hop] at h
  cases h
  have run := progress_runPlanned (plannedActions i s) (prologue i s)
  obtain ⟨hport, hctrl⟩ := prologue_wires i s
  obtain ⟨hsame, hlow⟩ := runPlanned_keepsBoundary (p := s.cfg) (s := prologue i s)
    (fun a ha => ⟨reach_plannedActions hi s a ha, keepsBoundary_plannedActions hi hmap a ha⟩)
    (prologue_cfg i s) (by rwa [hport]) (runPlanned_of_answer_ok (run.res.trans (prologue_results i s)) hok)
  rw [(conclude_wires ..).1, (conclude_wires ..).2, hsame, hctrl]
  exact ⟨hhalf, hlow⟩

/-! ### What is presented next -/

/-- The step of an idle block on a first request that decodes. -/
theorem step_of_decode {s : State} {r : Request} {rest : List Request} {i : Instr} (hidle : s.seq = .idle)
    (hreq : s.requests = r :: rest) (hdec : decode s.cfg.pinMap r = .ok i) :
    step s = exec i (s.setRequests rest) := by
  simp only [step, hidle, hreq, hdec]

/-- Settles O37: the step takes the request away and performs it. -/
theorem stepRunsPresentedOperation : Obligations.StepRunsPresentedOperation :=
  fun _ _ _ _ hidle hreq hdec => step_of_decode hidle hreq hdec

end Sys2Proof.Machine
end

section
/-! The encoding family (spec/30_encoding.md): a port byte is its roles (R73, R78, R79), so the decoder reads back what
the encoder placed (R82, R86); op codes and operand counts the decoder refuses (R82, R87); port bytes arriving at the port
(R73); and SEND_BYTES byte by byte (R92): a frame does not read what the host has been answered. -/

namespace Sys2Proof.Machine

/-! ### A port byte is its roles -/

/-- A property of every role, role by role. -/
theorem forall_role {P : Role → Prop} :
    (∀ r, P r) ↔ P .rs ∧ P .rnw ∧ P .en ∧ P .bl ∧ P .d4 ∧ P .d5 ∧ P .d6 ∧ P .d7 :=
  ⟨fun h => ⟨h _, h _, h _, h _, h _, h _, h _, h _⟩,
    fun ⟨hrs, hrnw, hen, hbl, h4, h5, h6, h7⟩ r => by cases r <;> assumption⟩

section
variable {m : PinMap} (h : m.wf = true)
include h

/-- A byte is the port byte of some role values exactly if it has them. -/
theorem eq_port_iff (rs rnw en bl : Bool) (n : Nibble) (b : Byte) :
    b = port m rs rnw en bl n ↔ ∀ r, roleBit m r b = roleValue rs rnw en bl n r := by
  constructor
  · rintro rfl
    exact roleBit_port h rs rnw en bl n
  · intro hb
    exact byte_ext_roles h fun r => (hb r).trans (roleBit_port h rs rnw en bl n r).symm

/-- The roles of a port byte that are not EN and not data. -/
theorem controlRoles_port (rs rnw en bl : Bool) (n : Nibble) :
    roleBit m .rs (port m rs rnw en bl n) = rs ∧ roleBit m .rnw (port m rs rnw en bl n) = rnw ∧
      roleBit m .bl (port m rs rnw en bl n) = bl :=
  ⟨roleBit_port h .., roleBit_port h .., roleBit_port h ..⟩

/-- How the decoder reads a port byte: by the role values it was marshalled from (R73, R76). -/
theorem decodePortByte_port (alone rs rnw en bl : Bool) (n : Nibble) :
    decodePortByte m alone (port m rs rnw en bl n) =
      if en then .strobeHighByte rs rnw bl n
      else if alone && !rs && !rnw && n == 0#4 then .idleByte bl
      else .strobeLowByte rs rnw bl n := by
  simp only [decodePortByte, roleBit_port h, nib_port h, roleValue]

end

/-- Settles O42: an operation's fields stand apart, and a port byte is read by its roles. -/
theorem decodeEncodeAgree : Obligations.DecodeEncodeAgree := by
  intro m i hm hi
  cases i with
  | sendBytes rs n bytes =>
    have hlen : bytes.length = n := by simpa [Instr.wf] using hi
    exact if_pos hlen
  | strobeHighByte rs rnw bl n => exact congrArg Except.ok (decodePortByte_port hm false rs rnw true bl n)
  | strobeLowByte rs rnw bl n => exact congrArg Except.ok (decodePortByte_port hm false rs rnw false bl n)
  | idleByte bl => exact congrArg Except.ok (decodePortByte_port hm true false false false bl 0#4)
  | _ => rfl

/-- Settles O2: each byte of the frame is a port byte, whose roles read back. -/
theorem busFrameFormat : Obligations.BusFrameFormat := by
  intro m rs rnw bl data h
  refine ⟨_, _, _, _, rfl, ?_, roleBit_port h .., roleBit_port h .., roleBit_port h .., roleBit_port h ..,
    nib_port h .., nib_port h .., nib_port h .., nib_port h ..⟩
  simp only [List.forall_mem_cons, controlRoles_port h, and_self, List.not_mem_nil, false_imp_iff, implies_true]

/-! ### The forms of the marshal function -/

/-- A placed bit is that bit, shifted. -/
theorem bitAt_eq_shiftLeft (p : Fin 8) (v : Bool) : bitAt p v = (BitVec.ofBool v).setWidth 8 <<< p.val := by
  cases v <;> simp [bitAt]

/-- One bit of a nibble, as a slice of it. -/
theorem ofBool_getLsbD (n : Nibble) (k : Nat) : BitVec.ofBool (n.getLsbD k) = n.extractLsb' k 1 := by
  apply BitVec.eq_of_getLsbD_eq
  intro i hi
  obtain rfl : i = 0 := by omega
  simp

/-- The sum of R78, in shifted bits. -/
theorem port_eq_sum (m : PinMap) (rs rnw en bl : Bool) (n : Nibble) :
    port m rs rnw en bl n =
      (BitVec.ofBool rs).setWidth 8 <<< m.rs.val ||| (BitVec.ofBool rnw).setWidth 8 <<< m.rnw.val |||
        (BitVec.ofBool en).setWidth 8 <<< m.en.val ||| (BitVec.ofBool bl).setWidth 8 <<< m.bl.val |||
        (n.extractLsb' 0 1).setWidth 8 <<< m.d4.val ||| (n.extractLsb' 1 1).setWidth 8 <<< m.d5.val |||
        (n.extractLsb' 2 1).setWidth 8 <<< m.d6.val ||| (n.extractLsb' 3 1).setWidth 8 <<< m.d7.val := by
  simp only [port, bitAt_eq_shiftLeft, ofBool_getLsbD]

/-- The default map is valid. -/
theorem PinMap.conventional_wf : PinMap.conventional.wf = true := by decide

/-- Under the default map a port byte is its fields side by side (R72). -/
theorem port_conventional_eq_append (rs rnw en bl : Bool) (n : Nibble) :
    port PinMap.conventional rs rnw en bl n =
      n ++ BitVec.ofBool bl ++ BitVec.ofBool en ++ BitVec.ofBool rnw ++ BitVec.ofBool rs := by
  refine ((eq_port_iff PinMap.conventional_wf rs rnw en bl n _).2 fun r => ?_).symm
  simp only [roleBit, BitVec.getLsbD_append, BitVec.getLsbD_ofBool]
  cases r <;> simp [PinMap.pos, PinMap.conventional, roleValue]

/-- Under the default map a port byte is the sum of its shifted fields (R72). -/
theorem port_conventional_eq_sum (rs rnw en bl : Bool) (n : Nibble) :
    port PinMap.conventional rs rnw en bl n =
      n.setWidth 8 <<< 4 ||| (BitVec.ofBool bl).setWidth 8 <<< 3 ||| (BitVec.ofBool en).setWidth 8 <<< 2 |||
        (BitVec.ofBool rnw).setWidth 8 <<< 1 ||| (BitVec.ofBool rs).setWidth 8 := by
  refine ((eq_port_iff PinMap.conventional_wf rs rnw en bl n _).2 fun r => ?_).symm
  cases r <;> simp [roleBit, PinMap.pos, PinMap.conventional, roleValue]

/-- Settles O4: a port byte is its roles, and the sum is the placed bits. -/
theorem marshalPlacesEveryRole : Obligations.MarshalPlacesEveryRole := fun m rs rnw en bl n h =>
  ⟨fun b => (eq_port_iff h rs rnw en bl n b).trans forall_role, port_eq_sum m rs rnw en bl n,
    port_conventional_eq_append rs rnw en bl n, port_conventional_eq_sum rs rnw en bl n⟩

/-! ### The unmarshal function -/

/-- Samples that agree in the data roles have the same nibble. -/
theorem nib_congr {m : PinMap} {s s' : Byte} (h4 : roleBit m .d4 s = roleBit m .d4 s')
    (h5 : roleBit m .d5 s = roleBit m .d5 s') (h6 : roleBit m .d6 s = roleBit m .d6 s')
    (h7 : roleBit m .d7 s = roleBit m .d7 s') : nib m s = nib m s' := by
  rw [nib, nib, h4, h5, h6, h7]

/-- Under the default map the nibble is the high nibble of the sample. -/
theorem nib_conventional (s : Byte) : nib PinMap.conventional s = hiNibble s := by
  revert s
  decide

/-- Settles O5: the nibble is made of the four data roles. -/
theorem unmarshalReadsDataRoles : Obligations.UnmarshalReadsDataRoles := fun m s =>
  ⟨nib_getLsbD m s, fun _ => nib_congr, nib_conventional s⟩

/-! ### Port bytes at the port -/

/-- A byte with EN high replaces the port and lowers nothing. -/
theorem drive_of_en_high {s : State} {b : Byte} (hb : roleBit s.cfg.pinMap .en b = true) :
    s.drive b = { s with port := b } := by
  simp [State.drive, enableFalls, hb]

/-- A byte with EN low replaces the port, and EN falls exactly if it was high. -/
theorem drive_of_en_low {s : State} {b : Byte} (hb : roleBit s.cfg.pinMap .en b = false) :
    s.drive b = { s with
      port := b
      strobes := if s.port.getLsbD s.cfg.pinMap.en then s.strobes ++ [⟨s.port, b⟩] else s.strobes
      controller := if s.port.getLsbD s.cfg.pinMap.en then s.controller.strobe else s.controller } := by
  simp only [State.drive, enableFalls, hb, Bool.not_false, Bool.and_true]
  rfl

/-- Settles O22: each row drives its byte onto the port, and EN falls where that byte has EN low. -/
theorem portBytesDriveThePort : Obligations.PortBytesDriveThePort := by
  intro rs rnw bl n s h
  refine ⟨?_, ?_, ?_⟩
  · exact congrArg Host.Outcome.next (drive_of_en_high (roleBit_port h ..))
  · exact congrArg Host.Outcome.next (drive_of_en_low (roleBit_port h ..))
  · rw [← idlePortByte_eq]
    exact congrArg Host.Outcome.next (drive_of_en_low (roleBit_port h ..))

/-! ### What the decoder refuses, and words written out -/

/-- The step of an idle block on a first request that does not decode. -/
theorem step_of_decode_error {s : State} {r : Request} {rest : List Request} {e : DecodeError} (hidle : s.seq = .idle)
    (hreq : s.requests = r :: rest) (hdec : decode s.cfg.pinMap r = .error e) :
    step s = .refused (refusalOf e) := by
  simp only [step, hidle, hreq, hdec]

/-- Op codes from 9 name no operation (R87). -/
theorem decodeCommand_reserved {c : HostCommand} (h : 9 ≤ c.op.toNat) :
    decodeCommand c = .error (.reservedOpCode c.op) := by
  unfold decodeCommand
  split
  case h_10 => rfl
  all_goals omega

/-- Op code 4 names SEND_BYTES, where the operand count agrees (R82). -/
theorem decodeCommand_sendBytes {c : HostCommand} (h : c.op = 4#4) :
    decodeCommand c =
      if c.bytes.length = c.n then .ok (.sendBytes c.rs c.n c.bytes)
      else .error (.operandLengthMismatch c.n c.bytes.length) := by
  simp [decodeCommand, h]

/-- Settles O40: the decoder names the op code. -/
theorem reservedOpCodesRefused : Obligations.ReservedOpCodesRefused :=
  fun _ _ _ hidle hreq hop => step_of_decode_error hidle hreq (decodeCommand_reserved hop)

/-- Settles O41: the decoder compares the counts. -/
theorem sendBytesOperandCountChecked : Obligations.SendBytesOperandCountChecked := by
  intro s c rest hidle hreq hop
  have hdec := decodeCommand_sendBytes hop
  constructor
  · intro hlen
    exact step_of_decode hidle hreq (hdec.trans (if_pos hlen))
  · intro hlen
    exact step_of_decode_error hidle hreq (hdec.trans (if_neg hlen))

/-- Settles O43: six fixed words, decoded. -/
theorem writtenOutWordsDecode : Obligations.WrittenOutWordsDecode := by
  unfold Obligations.WrittenOutWordsDecode
  decide

/-! ### SEND_BYTES, byte by byte -/

/-- Bytes arriving at the port do not touch what the host has been answered. -/
theorem driveAll_answer (r : Response) (bs : List Byte) (s : State) :
    (s.answer r).driveAll bs = (s.driveAll bs).answer r := by
  induction bs generalizing s with
  | nil => rfl
  | cons b bs ih => exact ih (s.drive b)

/-- A frame does not read what the host has been answered. -/
theorem sendFrame_answer (r : Response) (rs : Bool) (b : Byte) (s : State) :
    sendFrame rs b (s.answer r) = ((sendFrame rs b s).1, (sendFrame rs b s).2.answer r) := by
  have drive (bs : List Byte) := driveAll_answer r bs (s.setEnv s.env.next)
  unfold sendFrame
  rcases EnvAnswer.ok_or_fail s.env.answer with ⟨s0, s1, h⟩ | ⟨k, h⟩
  · rw [strobedWrite_ok h, strobedWrite_ok (s := s.answer r) h]
    exact congrArg (fun t => (true, State.record _ t)) (drive _)
  · rw [strobedWrite_fail h, strobedWrite_fail (s := s.answer r) h]
    exact congrArg (fun t => (false, State.setController _ (State.record _ t))) (drive _)

/-- Nor does a loop of them. -/
theorem sendFrames_answer (r : Response) (rs : Bool) (bytes : List Byte) (s : State) :
    sendFrames rs bytes (s.answer r) = ((sendFrames rs bytes s).1, (sendFrames rs bytes s).2.answer r) := by
  induction bytes generalizing s with
  | nil => rfl
  | cons b bs ih =>
    rw [sendFrames, sendFrames, sendFrame_answer]
    rcases sendFrame rs b s with ⟨_ | _, t⟩
    · rfl
    · exact ih t

/-- A loop of frames answers the host nothing. -/
theorem sendFrames_results (rs : Bool) (bytes : List Byte) (s : State) :
    (sendFrames rs bytes s).2.results = s.results :=
  (progress_sendFrames (fun _ => True) rs bytes s fun _ _ => trivial).res

/-- A SEND_BYTES that presents what it announces sends its bytes. -/
theorem exec_sendBytes_length (rs : Bool) (bytes : List Byte) (s : State) :
    exec (.sendBytes rs bytes.length bytes) s = .next (finish (sendFrames rs bytes s)) := by
  simp only [exec, execSendBytes, List.take_length]

/-- An operation without a value gives one answer, and an earlier answer shows in the results alone. -/
theorem finish_answer {ok : Bool} {w : State} {before : List Response} (h : w.results = before) (r : Response) :
    ∃ r' : Response, (finish (ok, w.answer r)).results = before ++ [r, r'] ∧
      finish (ok, w) = { finish (ok, w.answer r) with results := before ++ [r'] } := by
  subst h
  cases ok with
  | false => exact ⟨⟨.transportError, []⟩, by simp, rfl⟩
  | true => exact ⟨⟨.ok, []⟩, by simp, rfl⟩

/-- Settles O16: the first frame of the loop is the frame of SEND_BYTE, and the rest do not read its answer. -/
theorem sendBytesIsSequentialSendByte : Obligations.SendBytesIsSequentialSendByte := by
  intro rs b bytes s t u hok ht hu
  obtain ⟨s0, s1, h⟩ := Environment.answer_of_allOk_one hok
  obtain ⟨t0, hframe⟩ : ∃ t0, sendFrame rs b s = (true, t0) := ⟨_, strobedWrite_ok h _⟩
  have hcons : sendFrames rs (b :: bytes) s = sendFrames rs bytes t0 := by rw [sendFrames, hframe, orRaise_true]
  have hres : (sendFrames rs bytes t0).2.results = s.results := hcons ▸ sendFrames_results rs (b :: bytes) s
  obtain rfl : t0.answer ⟨.ok, []⟩ = t := by
    rw [exec, execSendByte, hframe] at ht
    exact Host.Outcome.next.inj ht
  rw [exec_sendBytes_length, sendFrames_answer] at hu
  cases hu
  rw [exec_sendBytes_length, hcons]
  obtain ⟨r, hresults, hfinish⟩ := finish_answer hres ⟨.ok, []⟩
  exact ⟨r, hresults, congrArg Host.Outcome.next hfinish⟩

end Sys2Proof.Machine
end

section
/-! The encoder family (spec/40_encoder.md): ENCODE answers a frame of two strobe pairs (R100, R102), DECODE joins the
nibbles of two samples (R101), so it gives the payload of a frame back (R103); both answer alike wherever the PinMap is the
same (R106), and the conventional policy's formulas are the default PinMap's (R104). -/

namespace Sys2Proof.Machine

/-! ### What the two operations answer -/

/-- ENCODE answers its frame. -/
theorem exec_encode (rs rnw bl : Bool) (data : Byte) (s : State) :
    exec (.encode rs rnw bl data) s = .next (s.answerOk (encodeFrame s.cfg.pinMap rs rnw bl data)) := rfl

/-- DECODE answers the byte its samples decode to. -/
theorem exec_decode (s0 s1 : Byte) (s : State) :
    exec (.decode s0 s1) s = .next (s.answerOk [decodeData s.cfg.pinMap s0 s1]) := rfl

/-- Settles O1: the frame is written out in R100's own bytes. -/
theorem encodeAnswersBusFrame : Obligations.EncodeAnswersBusFrame := exec_encode

/-- Settles O3: bit `k` of a decoded nibble is the sample's bit at the position of that data role. -/
theorem decodeAnswersJoinedNibbles : Obligations.DecodeAnswersJoinedNibbles := by
  intro s0 s1 s
  obtain ⟨h4, h5, h6, h7⟩ := nib_getLsbD s.cfg.pinMap s0
  obtain ⟨l4, l5, l6, l7⟩ := nib_getLsbD s.cfg.pinMap s1
  have low (k : Nat) (hk : k < 4) := (getLsbD_decodeData s.cfg.pinMap s0 s1 hk).1
  have high (k : Nat) (hk : k < 4) := (getLsbD_decodeData s.cfg.pinMap s0 s1 hk).2
  exact ⟨decodeData s.cfg.pinMap s0 s1, exec_decode s0 s1 s,
    (high 3 (by decide)).trans h7, (high 2 (by decide)).trans h6,
    (high 1 (by decide)).trans h5, (high 0 (by decide)).trans h4,
    (low 3 (by decide)).trans l7, (low 2 (by decide)).trans l6,
    (low 1 (by decide)).trans l5, (low 0 (by decide)).trans l4⟩

/-- Settles O9: what the host is answered names the state's PinMap and the operands alone. -/
theorem encoderIsPureAndTotal : Obligations.EncoderIsPureAndTotal := by
  constructor
  · intro rs rnw bl data s s' hmap
    exact ⟨encodeFrame s.cfg.pinMap rs rnw bl data, exec_encode rs rnw bl data s,
      hmap ▸ exec_encode rs rnw bl data s'⟩
  · intro s0 s1 s s' hmap
    exact ⟨[decodeData s.cfg.pinMap s0 s1], exec_decode s0 s1 s, hmap ▸ exec_decode s0 s1 s'⟩

/-! ### Frames and the payload -/

/-- A strobe pair is two bytes that differ in EN alone, set in the first and cleared in the second (R102). -/
theorem isStrobePair_iff (m : PinMap) (a b : Byte) :
    isStrobePair m a b = true ↔
      a ^^^ b = 1#8 <<< m.en.val ∧ roleBit m .en a = true ∧ roleBit m .en b = false := by
  simp only [isStrobePair, bitAt, cond_true, Bool.and_eq_true, Bool.not_eq_true', beq_iff_eq]
  exact and_comm

/-- Settles O6: each nibble's two bytes are a strobe pair. -/
theorem strobePairLaw : Obligations.StrobePairLaw := by
  intro rs rnw bl data s hmap
  have pair (n : Nibble) := (isStrobePair_iff _ _ _).1 (isStrobePair_port hmap rs rnw bl n)
  obtain ⟨hxor, hfirst, hsecond⟩ := pair (hiNibble data)
  obtain ⟨lxor, lfirst, lsecond⟩ := pair (loNibble data)
  exact ⟨_, _, _, _, exec_encode rs rnw bl data s, hxor, lxor, hfirst, lfirst, hsecond, lsecond⟩

/-- Either byte of the high half of a frame, decoded with either byte of its low half, is the payload. -/
theorem decodeData_port {m : PinMap} (h : m.wf = true) (rs rnw bl en en' : Bool) (data : Byte) :
    decodeData m (port m rs rnw en bl (hiNibble data)) (port m rs rnw en' bl (loNibble data)) = data := by
  rw [decodeData, nib_port h, nib_port h, joinNibbles_hi_lo]

/-- Settles O7: the bytes of a half differ in EN, which DECODE does not read. -/
theorem encodeDecodeRoundTrip : Obligations.EncodeDecodeRoundTrip := by
  intro rs rnw bl data s hmap
  have decoded (en en' : Bool) :
      exec (.decode (port s.cfg.pinMap rs rnw en bl (hiNibble data)) (port s.cfg.pinMap rs rnw en' bl (loNibble data))) s =
        .next (s.answerOk [data]) := by
    rw [exec_decode, decodeData_port hmap]
  refine ⟨_, _, _, _, exec_encode rs rnw bl data s, ?_⟩
  simp only [List.forall_mem_cons, List.not_mem_nil, false_imp_iff, implies_true, and_true]
  exact ⟨⟨decoded true true, decoded true false⟩, decoded false true, decoded false false⟩

/-! ### The conventional policy -/

/-- The high nibble, masked in place. -/
theorem and_highMask (data : Byte) : data &&& 0xF0#8 = hiNibble data ++ 0#4 := by
  revert data
  decide

/-- The low nibble, moved up. -/
theorem hiNibble_shiftLeft_four (data : Byte) : hiNibble (data <<< 4) = loNibble data := by
  revert data
  decide

/-- The high nibble, moved down. -/
theorem shiftRight_four (data : Byte) : data >>> 4 = 0#4 ++ hiNibble data := by
  revert data
  decide

/-- Two nibbles in their places, joined by an or. -/
theorem append_zero_or_zero_append (hi lo : Nibble) : (hi ++ 0#4) ||| (0#4 ++ lo) = joinNibbles hi lo := by
  rw [BitVec.or_append, BitVec.or_zero, BitVec.zero_or, joinNibbles]

/-- A strobe low byte by the conventional formulas (R104): the nibble in its place, and the flags. -/
theorem port_conventional_en_low (rs rnw bl : Bool) (n : Nibble) :
    (n ++ 0#4) ||| (bitAt 0 rs ||| bitAt 1 rnw ||| bitAt 3 bl) = port PinMap.conventional rs rnw false bl n := by
  refine (eq_port_iff PinMap.conventional_wf rs rnw false bl n _).2 fun r => ?_
  simp only [roleBit, BitVec.getLsbD_or, BitVec.getLsbD_append, bitAt_getLsbD]
  cases r <;> simp [PinMap.pos, PinMap.conventional, roleValue]

/-- The strobe high byte is the strobe low byte with the EN bit. -/
theorem port_conventional_en_high (rs rnw bl : Bool) (n : Nibble) :
    port PinMap.conventional rs rnw false bl n ||| 0x04#8 = port PinMap.conventional rs rnw true bl n := by
  refine (eq_port_iff PinMap.conventional_wf rs rnw true bl n _).2 fun r => ?_
  rw [roleBit, BitVec.getLsbD_or, ← roleBit, roleBit_port PinMap.conventional_wf]
  cases r <;> simp [PinMap.pos, PinMap.conventional, roleValue]

/-- The conventional frame is the frame of the default PinMap. -/
theorem conventionalFrame_eq (rs rnw bl : Bool) (data : Byte) :
    conventionalFrame rs rnw bl data = encodeFrame PinMap.conventional rs rnw bl data := by
  simp only [conventionalFrame, encodeFrame, and_highMask, hiNibble_shiftLeft_four, port_conventional_en_low,
    port_conventional_en_high]

/-- The conventional decoding is the decoding under the default PinMap. -/
theorem conventionalDecode_eq (s0 s1 : Byte) : conventionalDecode s0 s1 = decodeData PinMap.conventional s0 s1 := by
  rw [conventionalDecode, and_highMask, shiftRight_four, append_zero_or_zero_append, decodeData, nib_conventional,
    nib_conventional]

/-- Settles O8: the formulas place and read the roles where the default PinMap has them. -/
theorem conventionalPolicyAgrees : Obligations.ConventionalPolicyAgrees := ⟨conventionalFrame_eq, conventionalDecode_eq⟩

end Sys2Proof.Machine
end

section
/-! The protocol driver family (spec/41_protocol_driver.md): what INITIALIZE, the sends, the receives and SET_BACKLIGHT
write and answer, up to the first failing primitive (R120 to R133). `State.afterActions` is the state after some external
actions; each loop, and the handshake, is one such state while the answers are `ok` and one more after a failure. -/

namespace Sys2Proof.Machine

/-! ### The state after some external actions -/

/-- The state after the actions `added`, which put `bytes` on the port one after the other and left the environment at
`e`. -/
def State.afterActions (added : List Action) (bytes : List Byte) (e : Environment) (s : State) : State :=
  { s with
    trace := s.trace ++ added
    env := e
    port := (s.driveAll bytes).port
    strobes := (s.driveAll bytes).strobes
    controller := (s.driveAll bytes).controller }

section
variable (added : List Action) (bytes : List Byte) (e : Environment) (s : State)

@[simp] theorem afterActions_cfg : (s.afterActions added bytes e).cfg = s.cfg := rfl
@[simp] theorem afterActions_bl : (s.afterActions added bytes e).bl = s.bl := rfl
@[simp] theorem afterActions_env : (s.afterActions added bytes e).env = e := rfl

/-- No action. -/
@[simp] theorem afterActions_nil : s.afterActions [] [] s.env = s := by
  simp [State.afterActions]

/-- Actions after actions. -/
@[simp] theorem afterActions_afterActions (added' : List Action) (bytes' : List Byte) (e' : Environment) :
    (s.afterActions added bytes e).afterActions added' bytes' e' =
      s.afterActions (added ++ added') (bytes ++ bytes') e' := by
  obtain ⟨hport, hstrobes, hctrl⟩ := driveAll_congr bytes' (s := s.afterActions added bytes e) (t := s.driveAll bytes)
    (by simp) rfl rfl rfl
  simp only [State.afterActions, driveAll_append] at *
  simp [hport, hstrobes, hctrl]

/-- One I2C primitive: its bytes on the port, and its entry in the trace. -/
theorem record_driveAll_setEnv (a : Action) :
    ((s.setEnv e).driveAll bytes).record a = s.afterActions [a] bytes e := by
  rw [driveAll_setEnv, driveAll_frame]
  rfl

/-- A delay is an action without bytes. -/
theorem record_delay (us : Microseconds) : s.record (.delay us) = s.afterActions [.delay us] [] s.env := rfl

/-- What reaches the port does not depend on what is known of the controller. -/
theorem driveAll_setController (c : ControllerBus) :
    ((s.setController c).driveAll bytes).port = (s.driveAll bytes).port ∧
      ((s.setController c).driveAll bytes).strobes = (s.driveAll bytes).strobes := by
  induction bytes generalizing s c with
  | nil => exact ⟨rfl, rfl⟩
  | cons b bs ih => exact ih (s.drive b) ((s.setController c).drive b).controller

/-- What is known of the controller before some actions is forgotten where it is set after them. -/
@[simp] theorem setController_afterActions (c c' : ControllerBus) :
    ((s.setController c).afterActions added bytes e).setController c' =
      (s.afterActions added bytes e).setController c' := by
  obtain ⟨hport, hstrobes⟩ := driveAll_setController bytes s c
  simp only [State.afterActions, hport, hstrobes]
  rfl

/-- `INITIALIZED` is not read by any action. -/
theorem afterActions_setInitialized (v : Bool) :
    (s.setInitialized v).afterActions added bytes e = (s.afterActions added bytes e).setInitialized v := by
  obtain ⟨hport, hstrobes, hctrl⟩ := driveAll_congr bytes (s := s.setInitialized v) (t := s) rfl rfl rfl rfl
  simp only [State.afterActions, hport, hstrobes, hctrl]
  rfl

end

/-! ### The environment's answers -/

/-- The answers go on after `k` of them. -/
theorem Environment.next_after (k : Nat) (e : Environment) : (e.after k).next = e.after (k + 1) := by
  induction k generalizing e with
  | zero => rfl
  | succ k ih => exact ih e.next

/-- The next `n` answers are all `ok`, or one of them is the first to fail. -/
theorem Environment.allOk_or_failsAt (n : Nat) (e : Environment) :
    e.allOk n = true ∨ ∃ k reached, k < n ∧ e.FailsAt k reached := by
  induction n generalizing e with
  | zero => exact .inl rfl
  | succ n ih =>
    obtain ⟨s0, s1, h⟩ | ⟨reached, h⟩ := EnvAnswer.ok_or_fail e.answer
    · obtain hall | ⟨k, reached, hk, hfail⟩ := ih e.next
      · exact .inl (by simp [Environment.allOk_succ, EnvAnswer.isOk, h, hall])
      · exact .inr ⟨k + 1, reached, by omega, (Environment.failsAt_succ k reached e).2 ⟨⟨s0, s1, h⟩, hfail⟩⟩
    · exact .inr ⟨0, reached, by omega, rfl, h⟩

/-! ### Writes of strobe pairs -/

/-- A write of strobe pairs answered `ok`, where the source says what the controller then is. -/
theorem strobedWrite_some_of_isOk {s : State} (h : s.env.answer.isOk = true) (c : ControllerBus) (bytes : List Byte) :
    strobedWrite (some c) bytes s =
      (true, (s.afterActions [.write s.cfg.i2cAddr bytes true] bytes s.env.next).setController c) := by
  obtain ⟨s0, s1, e⟩ := (EnvAnswer.isOk_iff _).1 h
  rw [strobedWrite_reach e, record_driveAll_setEnv]

/-- A write of strobe pairs answered `fail`. -/
theorem strobedWrite_of_fail {s : State} {reached : Nat} (h : s.env.answer = .fail reached)
    (reach : Option ControllerBus) (bytes : List Byte) :
    strobedWrite reach bytes s =
      (false, (s.afterActions [.write s.cfg.i2cAddr bytes false] (bytes.take reached) s.env.next).setController
        .unknown) := by
  rw [strobedWrite_fail h, record_driveAll_setEnv]

/-- A frame of a send, answered `ok`. -/
theorem sendFrame_of_isOk {s : State} (h : s.env.answer.isOk = true) (rs : Bool) (data : Byte) :
    sendFrame rs data s =
      (true, s.afterActions [.write s.cfg.i2cAddr (encodeFrame s.cfg.pinMap rs false s.bl data) true]
        (encodeFrame s.cfg.pinMap rs false s.bl data) s.env.next) := by
  obtain ⟨s0, s1, e⟩ := (EnvAnswer.isOk_iff _).1 h
  rw [sendFrame, strobedWrite_ok e, record_driveAll_setEnv, sendFrameBytes_eq]

/-- A frame of a send, answered `fail`. -/
theorem sendFrame_of_fail {s : State} {reached : Nat} (h : s.env.answer = .fail reached) (rs : Bool) (data : Byte) :
    sendFrame rs data s =
      (false, (s.afterActions [.write s.cfg.i2cAddr (encodeFrame s.cfg.pinMap rs false s.bl data) false]
        ((encodeFrame s.cfg.pinMap rs false s.bl data).take reached) s.env.next).setController .unknown) := by
  rw [sendFrame, strobedWrite_of_fail h, sendFrameBytes_eq]

/-! ### INITIALIZE -/

/-- The handshake with every write answered `ok`. -/
theorem initHandshake_of_allOk {s : State} (h : s.env.allOk 4 = true) (lineMode fontMode : Bool) :
    initHandshake lineMode fontMode s =
      (true, (s.afterActions (initActions s.cfg s.bl lineMode fontMode)
        ((List.replicate 3 (initHalfFrame s.cfg s.bl)).flatten ++ initFinalFrame s.cfg s.bl lineMode fontMode)
        (s.env.after 4)).setController (.fourBit .high)) := by
  simp only [Environment.allOk_succ, Environment.allOk_zero, Bool.and_eq_true] at h
  obtain ⟨h0, h1, h2, h3, -⟩ := h
  simp [initHandshake, strobedWrite_some_of_isOk, h0, h1, h2, h3, record_delay, initActions]

/-- The handshake with write number `k` the first to fail. -/
theorem initHandshake_of_failsAt {k reached : Nat} (hk : k < 4) {s : State} (h : s.env.FailsAt k reached)
    (lineMode fontMode : Bool) :
    initHandshake lineMode fontMode s =
      (false, (s.afterActions ((initActions s.cfg s.bl lineMode fontMode).take (initWriteIndex k) ++
          [.write s.cfg.i2cAddr (initWriteBytes s.cfg s.bl lineMode fontMode k) false])
        (initReachedBytes s.cfg s.bl lineMode fontMode k reached) (s.env.after (k + 1))).setController .unknown) := by
  obtain ⟨hok, hfail⟩ := h
  -- One case per write that fails: the writes before it are answered `ok`, and `orRaise` drops those after it.
  have hk : k = 0 ∨ k = 1 ∨ k = 2 ∨ k = 3 := by omega
  rcases hk with rfl | rfl | rfl | rfl <;>
    simp only [Environment.allOk_succ, Environment.allOk_zero, Environment.after_succ, Environment.after_zero,
      Bool.and_eq_true, and_true] at hok hfail <;>
    simp [initHandshake, strobedWrite_some_of_isOk, strobedWrite_of_fail (reached := reached), hok, hfail,
      record_delay, initActions, initWriteIndex, initWriteBytes, initReachedBytes]

/-- INITIALIZE with every write answered `ok`. -/
theorem exec_initialise_of_allOk {s : State} (h : s.env.allOk 4 = true) (lineMode fontMode : Bool) :
    exec (.initialise lineMode fontMode) s =
      .next { s.afterActions (initActions s.cfg s.bl lineMode fontMode)
          ((List.replicate 3 (initHalfFrame s.cfg s.bl)).flatten ++ initFinalFrame s.cfg s.bl lineMode fontMode)
          (s.env.after 4) with
        initialized := true
        results := s.results ++ [⟨.ok, []⟩]
        controller := .fourBit .high } := by
  have handshake := initHandshake_of_allOk (s := s.setInitialized false) h lineMode fontMode
  rw [exec, execInitialise, handshake, orRaise_true, finish_true, afterActions_setInitialized]
  rfl

/-- INITIALIZE with write number `k` the first to fail. -/
theorem exec_initialise_of_failsAt {k reached : Nat} (hk : k < 4) {s : State} (h : s.env.FailsAt k reached)
    (lineMode fontMode : Bool) :
    exec (.initialise lineMode fontMode) s =
      .next { s.afterActions ((initActions s.cfg s.bl lineMode fontMode).take (initWriteIndex k) ++
            [.write s.cfg.i2cAddr (initWriteBytes s.cfg s.bl lineMode fontMode k) false])
          (initReachedBytes s.cfg s.bl lineMode fontMode k reached) (s.env.after (k + 1)) with
        initialized := false
        results := s.results ++ [⟨.transportError, []⟩]
        controller := .unknown } := by
  have handshake := initHandshake_of_failsAt hk (s := s.setInitialized false) h lineMode fontMode
  rw [exec, execInitialise, handshake, orRaise_false, finish_false, afterActions_setInitialized]
  rfl

/-- Settles O11: before the write that fails the handshake has gone as far as it does with `ok` answers, and what was
known of the controller is forgotten. -/
theorem initialiseFailureStops : Obligations.InitialiseFailureStops := by
  intro lineMode fontMode k reached s hk h
  rw [exec_initialise_of_failsAt hk h, List.append_assoc]
  rfl

/-- The half frame of INITIALIZE holds the high nibble of `CMD_FS8` alone (R123). -/
theorem initHalfFrame_congr {p q : Params} (hmap : p.pinMap = q.pinMap) (h : hiNibble p.cmdFs8 = hiNibble q.cmdFs8)
    (bl : Bool) : initHalfFrame p bl = initHalfFrame q bl := by
  simp [initHalfFrame, slice, encodeFrame, hmap, h]

/-- Both bytes of a half frame present the high nibble of `CMD_FS8`. -/
theorem map_nib_initHalfFrame {p : Params} (h : p.pinMap.wf = true) (bl : Bool) :
    (initHalfFrame p bl).map (nib p.pinMap) = [hiNibble p.cmdFs8, hiNibble p.cmdFs8] := by
  simp [initHalfFrame, slice, encodeFrame, nib_port h]

/-- A state with another `CMD_FS8` in its configuration. -/
def State.withFs8 (fs8 : Byte) (s : State) : State := { s with cfg := { s.cfg with cmdFs8 := fs8 } }

/-- Actions do not read `CMD_FS8`. -/
theorem afterActions_withFs8 (fs8 : Byte) (added : List Action) (bytes : List Byte) (e : Environment) (s : State) :
    (s.withFs8 fs8).afterActions added bytes e = (s.afterActions added bytes e).withFs8 fs8 := by
  obtain ⟨hport, hstrobes, hctrl⟩ := driveAll_congr bytes (s := s.withFs8 fs8) (t := s) rfl rfl rfl rfl
  simp only [State.afterActions, hport, hstrobes, hctrl]
  rfl

/-- Of `CMD_FS8` INITIALIZE reads the half frame alone, whether its writes are answered `ok` or one fails. -/
theorem exec_initialise_withFs8 {fs8 : Byte} {s t : State} (hfs8 : hiNibble fs8 = hiNibble s.cfg.cmdFs8)
    {lineMode fontMode : Bool} (h : exec (.initialise lineMode fontMode) s = .next t) :
    exec (.initialise lineMode fontMode) (s.withFs8 fs8) = .next (t.withFs8 fs8) := by
  have half : initHalfFrame (s.withFs8 fs8).cfg (s.withFs8 fs8).bl = initHalfFrame s.cfg s.bl :=
    initHalfFrame_congr (p := (s.withFs8 fs8).cfg) (q := s.cfg) rfl hfs8 s.bl
  obtain hok | ⟨k, reached, hk, hfail⟩ := Environment.allOk_or_failsAt 4 s.env
  · rw [exec_initialise_of_allOk hok] at h
    cases h
    rw [exec_initialise_of_allOk (s := s.withFs8 fs8) hok, afterActions_withFs8]
    simp only [initActions, half]
    rfl
  · rw [exec_initialise_of_failsAt hk hfail] at h
    cases h
    rw [exec_initialise_of_failsAt hk (s := s.withFs8 fs8) hfail, afterActions_withFs8]
    simp only [initActions, initReachedBytes, initWriteBytes, half]
    rfl

/-- Settles O12: the half frame holds the high nibble of `CMD_FS8` alone. -/
theorem onlyHighNibbleOfFunctionSet8 : Obligations.OnlyHighNibbleOfFunctionSet8 := by
  constructor
  · intro lineMode fontMode fs8 s t hfs8 h
    exact exec_initialise_withFs8 hfs8 h
  · intro p bl hmap hfs8
    rw [map_nib_initHalfFrame hmap, hfs8]
    rfl

/-! ### Falls of EN -/

/-- Bytes that make EN fall as `ks` says, whatever the port held before them, and move the nibble phase once for each
fall. -/
def MakesStrobes (p : Params) (bytes : List Byte) (ks : List Strobe) : Prop :=
  ∀ s : State, s.cfg = p → (s.driveAll bytes).strobes = s.strobes ++ ks ∧
    (s.driveAll bytes).controller = ControllerBus.strobe^[ks.length] s.controller

/-- No byte. -/
theorem makesStrobes_nil (p : Params) : MakesStrobes p [] [] := fun s _ => ⟨(List.append_nil s.strobes).symm, rfl⟩

/-- Bytes after bytes. -/
theorem MakesStrobes.append {p : Params} {as bs : List Byte} {js ks : List Strobe} (ha : MakesStrobes p as js)
    (hb : MakesStrobes p bs ks) : MakesStrobes p (as ++ bs) (js ++ ks) := by
  intro s hs
  obtain ⟨hstrobes, hctrl⟩ := ha s hs
  obtain ⟨hstrobes', hctrl'⟩ := hb (s.driveAll as) ((driveAll_cfg as s).trans hs)
  rw [driveAll_append, hstrobes', hctrl', hstrobes, hctrl, List.append_assoc, List.length_append, Nat.add_comm,
    Function.iterate_add_apply]
  exact ⟨rfl, rfl⟩

/-- The same bytes again and again. -/
theorem MakesStrobes.replicate {p : Params} {bytes : List Byte} {ks : List Strobe} (h : MakesStrobes p bytes ks)
    (n : Nat) : MakesStrobes p (List.replicate n bytes).flatten (List.replicate n ks).flatten := by
  induction n with
  | zero => exact makesStrobes_nil p
  | succ n ih => exact h.append ih

/-- Bytes for each element of a list. -/
theorem MakesStrobes.flatMap {p : Params} {f : Byte → List Byte} {g : Byte → List Strobe}
    (h : ∀ x, MakesStrobes p (f x) (g x)) (l : List Byte) : MakesStrobes p (l.flatMap f) (l.flatMap g) := by
  induction l with
  | nil => exact makesStrobes_nil p
  | cons x l ih => exact (h x).append ih

/-- An even number of falls of EN brings the nibble phase back. -/
theorem MakesStrobes.controller_of_even {p : Params} {bytes : List Byte} {ks : List Strobe}
    (h : MakesStrobes p bytes ks) (heven : Even ks.length) {s : State} (hs : s.cfg = p) :
    (s.driveAll bytes).controller = s.controller := by
  rw [(h s hs).2, Function.Involutive.iterate_even ControllerBus.strobe_strobe heven, id]

section
variable {p : Params} (h : p.pinMap.wf = true)
include h

/-- A half frame is one fall of EN. -/
theorem makesStrobes_initHalfFrame (bl : Bool) :
    MakesStrobes p (initHalfFrame p bl) ((frameStrobes p.pinMap false false bl p.cmdFs8).take 1) := by
  rintro s rfl
  have half : s.driveAll (initHalfFrame s.cfg bl) = _ :=
    driveAll_strobe rfl [] (roleBit_port h ..) (roleBit_port h ..)
  rw [half]
  exact ⟨rfl, rfl⟩

/-- A frame is two falls of EN. -/
theorem makesStrobes_encodeFrame (rs rnw bl : Bool) (data : Byte) :
    MakesStrobes p (encodeFrame p.pinMap rs rnw bl data) (frameStrobes p.pinMap rs rnw bl data) := by
  rintro s rfl
  rw [driveAll_encodeFrame_alone h]
  exact ⟨rfl, (ControllerBus.strobe_strobe s.controller).symm⟩

/-- The written bytes of a read transaction are two falls of EN. -/
theorem makesStrobes_readOps (bl rs : Bool) :
    MakesStrobes p (writtenBytes (readOps p bl rs)) (readStrobes p bl rs) := by
  rintro s rfl
  have read := driveAll_readOps h bl rs []
  rw [List.append_nil] at read
  rw [read]
  exact ⟨rfl, (ControllerBus.strobe_strobe s.controller).symm⟩

end

/-- The port after a frame that ends some bytes. -/
theorem driveAll_append_encodeFrame_port (bytes : List Byte) (m : PinMap) (rs rnw bl : Bool) (data : Byte) (s : State) :
    (s.driveAll (bytes ++ encodeFrame m rs rnw bl data)).port = port m rs rnw false bl (loNibble data) := by
  rw [driveAll_append]
  rfl

/-- Settles O10: on the port the three half frames are one fall of EN each, and the last write is a whole frame. -/
theorem initialiseCompletes : Obligations.InitialiseCompletes := by
  intro lineMode fontMode s hmap hlen hok
  have falls := ((makesStrobes_initHalfFrame hmap s.bl).replicate 3).append
    (makesStrobes_encodeFrame hmap false false s.bl (functionSet4 s.cfg.cmdFs4 lineMode fontMode))
  obtain ⟨hstrobes, -⟩ := falls s rfl
  rw [exec_initialise_of_allOk hok]
  simp only [State.afterActions, initActions, initFinalFrame_eq hlen, hstrobes, driveAll_append_encodeFrame_port,
    List.append_assoc]
  rfl

/-! ### The sends -/

/-- Settles O13: a frame is one write, which strobes twice where it is answered `ok`. -/
theorem sendByteWritesOneFrame : Obligations.SendByteWritesOneFrame := by
  intro rs data s hmap
  constructor
  · intro hok
    obtain ⟨s0, s1, h⟩ := Environment.answer_of_allOk_one hok
    rw [exec_sendByte_of_ok h, driveAll_setEnv, driveAll_encodeFrame_alone hmap]
    rfl
  · intro reached h
    rw [exec, execSendByte, sendFrame_of_fail h]
    rfl

/-- The loop of SEND_BYTES while the writes are answered `ok`: one frame per element, and then the rest. -/
theorem sendFrames_append_of_allOk (rs : Bool) (before rest : List Byte) {s : State}
    (h : s.env.allOk before.length = true) :
    sendFrames rs (before ++ rest) s = sendFrames rs rest (s.afterActions
      (before.map fun b => .write s.cfg.i2cAddr (encodeFrame s.cfg.pinMap rs false s.bl b) true)
      (before.flatMap (encodeFrame s.cfg.pinMap rs false s.bl)) (s.env.after before.length)) := by
  induction before generalizing s with
  | nil => simp
  | cons b bs ih =>
    rw [List.length_cons, Environment.allOk_succ, Bool.and_eq_true] at h
    obtain ⟨hfirst, hrest⟩ := h
    rw [List.cons_append, sendFrames, sendFrame_of_isOk hfirst, orRaise_true, ih hrest, afterActions_afterActions]
    rfl

/-- Settles O14: one frame per element, each of which strobes twice. -/
theorem sendBytesWritesOneFramePerElement : Obligations.SendBytesWritesOneFramePerElement := by
  intro rs bytes s hmap hok
  have falls := MakesStrobes.flatMap (makesStrobes_encodeFrame hmap rs false s.bl) bytes
  have heven : Even (bytes.flatMap (frameStrobes s.cfg.pinMap rs false s.bl)).length :=
    ⟨bytes.length, by simp [List.length_flatMap, frameStrobes]; omega⟩
  have frames := sendFrames_append_of_allOk rs bytes [] hok
  rw [List.append_nil, sendFrames] at frames
  rw [exec_sendBytes_length, frames]
  simp only [finish_true, State.afterActions, (falls s rfl).1, falls.controller_of_even heven rfl]
  rfl

/-- Settles O15: the loop has sent the elements before the one that fails, and stops there. -/
theorem sendBytesStopsAtFirstFailure : Obligations.SendBytesStopsAtFirstFailure := by
  intro rs before after b reached s ⟨hok, hfail⟩
  rw [exec_sendBytes_length, sendFrames_append_of_allOk rs before _ hok, sendFrames, sendFrame_of_fail hfail,
    orRaise_false, finish_false, afterActions_afterActions, afterActions_env, Environment.next_after, List.append_assoc]
  rfl

/-! ### The receives -/

/-- A read transaction of a receive, answered `ok`. -/
theorem receiveOne_of_ok {s : State} {s0 s1 : Byte} (h : s.env.answer = .ok s0 s1) (rs : Bool) :
    receiveOne rs s =
      (some (decodeData s.cfg.pinMap s0 s1),
        s.afterActions [.transaction s.cfg.i2cAddr (readOps s.cfg s.bl rs) (some [[s0], [s1]])]
          (writtenBytes (readOps s.cfg s.bl rs)) s.env.next) := by
  rw [receiveOne, readTransaction_ok h, record_driveAll_setEnv]

/-- A read transaction of a receive, answered `fail`. -/
theorem receiveOne_of_fail {s : State} {reached : Nat} (h : s.env.answer = .fail reached) (rs : Bool) :
    receiveOne rs s =
      (none, (s.afterActions [.transaction s.cfg.i2cAddr (readOps s.cfg s.bl rs) none]
        ((writtenBytes (readOps s.cfg s.bl rs)).take reached) s.env.next).setController .unknown) := by
  rw [receiveOne, readTransaction_fail h, record_driveAll_setEnv]

/-- Settles O17: the transaction's slices are of a frame whose bytes 1 and 2 are `p1` and `p2`. -/
theorem receiveByteIsOneTransaction : Obligations.ReceiveByteIsOneTransaction := by
  intro rs s hmap
  refine ⟨_, _, rfl, rfl, ?_, ?_⟩
  · intro s0 s1 h
    have read := driveAll_readOps hmap s.bl rs []
    rw [List.append_nil] at read
    rw [exec_receiveByte_of_ok h, driveAll_setEnv, read]
    rfl
  · intro reached h
    rw [exec, execReceiveByte, receiveOne_of_fail h]
    rfl

/-- The loop of RECEIVE_BYTES while the transactions are answered `ok`: the bytes of their samples, and then the
rest. -/
theorem receiveMany_add_of_allOk (rs : Bool) (k n : Nat) {s u : State} {ok : Bool} {vs : List Byte}
    (h : s.env.allOk k = true)
    (hrest : receiveMany rs n (s.afterActions (readActions s.cfg s.bl rs k s.env)
      (List.replicate k (writtenBytes (readOps s.cfg s.bl rs))).flatten (s.env.after k)) = (ok, vs, u)) :
    receiveMany rs (n + k) s = (ok, sampledBytes s.cfg.pinMap k s.env ++ vs, u) := by
  induction k generalizing s with
  | zero => simpa [readActions, sampledBytes] using hrest
  | succ k ih =>
    rw [Environment.allOk_succ, Bool.and_eq_true, EnvAnswer.isOk_iff] at h
    obtain ⟨⟨s0, s1, hfirst⟩, hok⟩ := h
    have later := ih (s := s.afterActions [.transaction s.cfg.i2cAddr (readOps s.cfg s.bl rs) (some [[s0], [s1]])]
      (writtenBytes (readOps s.cfg s.bl rs)) s.env.next) hok
      (by simpa [readActions, hfirst, List.replicate_succ] using hrest)
    rw [← Nat.add_assoc, receiveMany, receiveOne_of_ok hfirst]
    simp [later, sampledBytes, hfirst]

/-- As many decoded bytes as transactions answered `ok`. -/
theorem length_sampledBytes (m : PinMap) {n : Nat} {e : Environment} (h : e.allOk n = true) :
    (sampledBytes m n e).length = n := by
  induction n generalizing e with
  | zero => rfl
  | succ n ih =>
    rw [Environment.allOk_succ, Bool.and_eq_true, EnvAnswer.isOk_iff] at h
    obtain ⟨⟨s0, s1, hfirst⟩, hok⟩ := h
    simp [sampledBytes, hfirst, ih hok]

/-- Settles O18: one transaction per element, each of which strobes twice. -/
theorem receiveBytesReadsOnePerElement : Obligations.ReceiveBytesReadsOnePerElement := by
  intro rs n s hmap hok
  refine ⟨length_sampledBytes _ hok, ?_⟩
  have falls := (makesStrobes_readOps hmap s.bl rs).replicate n
  have heven : Even (List.replicate n (readStrobes s.cfg s.bl rs)).flatten.length :=
    ⟨n, by simp [readStrobes]; omega⟩
  have run := receiveMany_add_of_allOk rs n 0 hok rfl
  rw [Nat.zero_add] at run
  simp only [exec, execReceiveBytes, run, List.append_nil, State.afterActions, (falls s rfl).1,
    falls.controller_of_even heven rfl]
  rfl

/-- Settles O19: the loop has the bytes of the transactions before the one that fails, and stops there. -/
theorem receiveBytesStopsAtFirstFailure : Obligations.ReceiveBytesStopsAtFirstFailure := by
  intro rs k n reached s hk ⟨hok, hfail⟩
  obtain ⟨n, rfl⟩ : ∃ m, n = m + 1 + k := ⟨n - (k + 1), by omega⟩
  have run := receiveMany_add_of_allOk rs k (n + 1) hok (by rw [receiveMany, receiveOne_of_fail hfail])
  simp only [exec, execReceiveBytes, run, List.append_nil, afterActions_afterActions, afterActions_env,
    Environment.next_after, List.append_assoc]
  rfl

/-! ### SET_BACKLIGHT and DELAY -/

/-- Settles O20: the byte has EN low, so EN falls exactly if the byte arrives and EN was high. -/
theorem setBacklightWritesIdleByte : Obligations.SetBacklightWritesIdleByte := by
  intro on s hmap
  have arrives : (s.setBl on).driveAll [bitAt s.cfg.pinMap.bl on] = _ :=
    drive_of_en_low (idlePortByte_eq s.cfg.pinMap on ▸ roleBit_port hmap (r := .en) ..)
  constructor
  · intro hok
    obtain ⟨s0, s1, h⟩ := Environment.answer_of_allOk_one hok
    rw [exec, execSetBacklight, i2cWrite_ok (s := s.setBl on) h, idlePortByte_eq, driveAll_setEnv, arrives]
    rfl
  · intro reached h
    rw [exec, execSetBacklight, i2cWrite_fail (s := s.setBl on) h, idlePortByte_eq, driveAll_setEnv]
    cases reached with
    | zero => rfl
    | succ n =>
      rw [List.take_succ_cons, List.take_nil, arrives]
      simp only [ne_eq, Nat.add_one_ne_zero, not_false_eq_true, true_and, if_false]
      rfl

/-- Settles O21: the meaning of DELAY is its one request and its answer. -/
theorem delayPassesThrough : Obligations.DelayPassesThrough := fun _ _ => rfl

/-! ### What every action carries -/

/-- Whether an action is a read transaction. -/
def Action.isRead : Action → Bool
  | .write _ _ _ => false
  | .transaction _ _ _ => true
  | .delay _ => false

/-- A slice has no elements of its own. -/
theorem mem_of_mem_slice {l : List Byte} {i j : Nat} {b : Byte} (h : b ∈ slice l i j) : b ∈ l :=
  List.mem_of_mem_drop (List.mem_of_mem_take h)

/-- The written bytes of a read transaction are bytes of its frame. -/
theorem mem_encodeFrame_of_mem_readOps {p : Params} {bl rs : Bool} {b : Byte}
    (h : b ∈ writtenBytes (readOps p bl rs)) : b ∈ encodeFrame p.pinMap rs true bl p.readPrimeData := by
  simp only [readOps, writtenBytes, List.mem_append, List.not_mem_nil, or_false] at h
  obtain h | h | h := h <;> exact mem_of_mem_slice h

/-- Every byte of a frame carries its RNW and its BL. -/
theorem roles_of_mem_encodeFrame {m : PinMap} (h : m.wf = true) {rs rnw bl : Bool} {data b : Byte}
    (hb : b ∈ encodeFrame m rs rnw bl data) : roleBit m .rnw b = rnw ∧ roleBit m .bl b = bl := by
  obtain ⟨p0, p1, p2, p3, hframe, hroles, -⟩ := busFrameFormat m rs rnw bl data h
  exact (hroles b (hframe ▸ hb)).2

/-- What R120 asks of an action of the instruction `i`: each of its bytes carries `bl` and has RNW 1 exactly in a read
transaction, which only the receives issue. -/
def Action.CarriesRoles (m : PinMap) (i : Instr) (bl : Bool) (a : Action) : Prop :=
  (∀ b ∈ a.bytes, roleBit m .rnw b = a.isRead ∧ roleBit m .bl b = bl) ∧
    (a.isRead = true → ∃ rs, i = .receiveByte rs ∨ ∃ n, i = .receiveBytes rs n)

/-- A write of bytes of a frame. -/
theorem carriesRoles_write {m : PinMap} (h : m.wf = true) {rs bl : Bool} {data : Byte} {bytes : List Byte}
    (hbytes : ∀ b ∈ bytes, b ∈ encodeFrame m rs false bl data) (i : Instr) (addr : I2cAddress) (ok : Bool) :
    (Action.write addr bytes ok).CarriesRoles m i bl :=
  ⟨fun b hb => roles_of_mem_encodeFrame h (hbytes b hb), nofun⟩

/-- Every action an instruction adds carries the `BL` the instruction leaves, and its own RNW. -/
theorem exec_carriesRoles {i : Instr} {s t : State} (hmap : s.cfg.pinMap.wf = true) (h : exec i s = .next t) :
    ∃ added, t.trace = s.trace ++ added ∧ ∀ a ∈ added, a.CarriesRoles s.cfg.pinMap i t.bl := by
  obtain ⟨u, hu, effect⟩ := exec_effect_of (Action.CarriesRoles s.cfg.pinMap i t.bl) i s t.bl (exec_effect i s h).bl
    (fun ok _ => carriesRoles_write hmap (fun _ => mem_of_mem_slice) i _ ok)
    (fun _ _ ok _ => carriesRoles_write hmap (fun _ => mem_of_mem_slice) i _ ok)
    (fun _ => ⟨nofun, nofun⟩)
    (fun _ _ ok => carriesRoles_write hmap (fun _ => mem_of_mem_slice) i _ ok)
    (fun rs _ hi _ => ⟨fun _ hb => roles_of_mem_encodeFrame hmap (mem_encodeFrame_of_mem_readOps hb), fun _ => ⟨rs, hi⟩⟩)
    (fun _ => ⟨List.forall_mem_singleton.2 (controlRoles_port hmap ..).2, nofun⟩)
  rw [h] at hu
  cases hu
  obtain ⟨added, htrace, -, hroles, -⟩ := effect.tr
  exact ⟨added, htrace, hroles⟩

/-- Settles O24: the BL half of what every byte carries. -/
theorem backlightRidesOnEveryByte : Obligations.BacklightRidesOnEveryByte := by
  intro i s t hmap h
  obtain ⟨added, htrace, hroles⟩ := exec_carriesRoles hmap h
  exact ⟨added, htrace, fun a ha b hb => ((hroles a ha).1 b hb).2⟩

/-- Settles O25: the RNW half, and who reads. -/
theorem readNotWriteFixedByOperation : Obligations.ReadNotWriteFixedByOperation := by
  intro i s t hmap h
  obtain ⟨added, htrace, hroles⟩ := exec_carriesRoles hmap h
  refine ⟨added, htrace, fun a ha => ⟨?_, ?_⟩⟩
  · rintro addr bytes ok rfl b hb
    exact ((hroles _ ha).1 b hb).1
  · rintro addr ops samples rfl
    exact ⟨(hroles _ ha).2 rfl, fun b hb => ((hroles _ ha).1 b hb).1⟩

/-- Settles O28, from what every instruction can do. -/
theorem boundedExternalActions : Obligations.BoundedExternalActions := by
  intro i s t h
  obtain ⟨added, htrace, hbound, -⟩ := (exec_effect i s h).tr
  exact ⟨added, htrace, hbound⟩

end Sys2Proof.Machine
end

section
/-! The display layer's family (spec/42_display_layer.md): the layer's calls are pseudo-operations (R160), so each is what
`exec` says of the block's operations it is made of. `layerSendByte_eq_exec` and `layerSendBytes_eq_exec` say so of the two
sends, and the calls over them cite these. -/

namespace Sys2Proof.Machine

/-! ### The sends, as the layer calls them -/

/-- The one answer of an operation without a value has the status the layer passes on (R171). -/
theorem finish_results (r : Bool × State) : (finish r).results = r.2.results ++ [⟨layerStatus r.1, []⟩] := by
  obtain ⟨_ | _, t⟩ := r <;> rfl

/-- A frame answers the host nothing. -/
theorem sendFrame_results (rs : Bool) (data : Byte) (s : State) : (sendFrame rs data s).2.results = s.results :=
  (progress_strobedWrite (fun _ => True) none _ s fun _ => trivial).res

/-- A frame is sent where the environment's next answer is `ok`. -/
theorem sendFrame_fst (rs : Bool) (data : Byte) (s : State) : (sendFrame rs data s).1 = s.env.allOk 1 := by
  rw [Environment.allOk_succ, Environment.allOk_zero, Bool.and_true]
  obtain ⟨s0, s1, h⟩ | ⟨reached, h⟩ := EnvAnswer.ok_or_fail s.env.answer
  · have hok : s.env.answer.isOk = true := by rw [h, EnvAnswer.isOk]
    rw [sendFrame_of_isOk hok, hok]
  · rw [sendFrame_of_fail h, h, EnvAnswer.isOk]

/-- The layer's send of a byte is the block's SEND_BYTE, with the status of its answer. -/
theorem layerSendByte_eq_exec (rs : Bool) (data : Byte) (s : State) :
    ∃ (t : State) (r : Response), exec (.sendByte rs data) s = .next t ∧ t.results = s.results ++ [r] ∧
      layerSendByte rs data s = (r.status, t) := by
  refine ⟨finish (sendFrame rs data s), ⟨layerStatus (sendFrame rs data s).1, []⟩, rfl, ?_, rfl⟩
  rw [finish_results, sendFrame_results]

/-- The layer's send of several bytes is the block's SEND_BYTES, with the status of its answer. -/
theorem layerSendBytes_eq_exec (rs : Bool) (bytes : List Byte) (s : State) :
    ∃ (t : State) (r : Response), exec (.sendBytes rs bytes.length bytes) s = .next t ∧
      t.results = s.results ++ [r] ∧ layerSendBytes rs bytes s = (r.status, t) := by
  refine ⟨finish (sendFrames rs bytes s), ⟨layerStatus (sendFrames rs bytes s).1, []⟩, exec_sendBytes_length rs bytes s,
    ?_, rfl⟩
  rw [finish_results, sendFrames_results]

/-- The status of the layer's send of a byte is the environment's next answer. -/
theorem layerSendByte_of_exec {rs : Bool} {data : Byte} {s t : State} (h : exec (.sendByte rs data) s = .next t) :
    layerSendByte rs data s = (layerStatus (s.env.allOk 1), t) := by
  obtain rfl : finish (sendFrame rs data s) = t := Host.Outcome.next.inj h
  rw [layerSendByte, sendFrame_fst]

/-! ### POSITION -/

/-- Settles O50: the range check comes before the send. -/
theorem positionRangeError : Obligations.PositionRangeError := fun _ _ _ _ h => if_pos h

/-- The command for a cell in two-line mode, where its address has 7 bits (R162, R164). -/
theorem setDdramCommand_twoLine {g : LayerParams} {row col : Nat} (hline : g.lineMode = true)
    (haddr : (row % 2) * 0x40 + col < 128) :
    setDdramCommand g (ddramAddress g row col) = g.cmdSetDdram ||| BitVec.ofNat 8 ((row % 2) * 0x40 + col) := by
  rw [ddramAddress, if_pos hline, setDdramCommand, if_pos haddr]

/-- Settles O51: inside the geometry the check passes, and the layer sends the command for the cell. -/
theorem positionSendsDdramAddress : Obligations.PositionSendsDdramAddress := by
  intro g row col s hrow hcol hline haddr
  have hinside : ¬ (g.rows ≤ row ∨ g.cols ≤ col) := by omega
  rw [layerPosition, if_neg hinside, setDdramCommand_twoLine hline haddr]
  exact layerSendByte_eq_exec false _ s

/-! ### CLEAR and HOME -/

/-- A slow command whose send is answered `ok` goes on with its delay, and one whose send fails does not (R165). -/
theorem layerSlowCommand_of_exec {cmd : Byte} {s t : State} (h : exec (.sendByte false cmd) s = .next t) :
    (s.env.allOk 1 = true → ∃ u, exec (.delay 1520#32) t = .next u ∧ layerSlowCommand cmd s = (.ok, u)) ∧
      (s.env.allOk 1 = false → layerSlowCommand cmd s = (.transportError, t)) := by
  have hsend := layerSendByte_of_exec h
  constructor
  · intro hok
    rw [hok] at hsend
    exact ⟨layerDelay 1520#32 t, rfl, by rw [layerSlowCommand, hsend]; rfl⟩
  · intro hfail
    rw [hfail] at hsend
    rw [layerSlowCommand, hsend]
    rfl

/-- Settles O52: both are slow commands. -/
theorem clearAndHomeRequestDelay : Obligations.ClearAndHomeRequestDelay := fun _ _ _ =>
  ⟨layerSlowCommand_of_exec, layerSlowCommand_of_exec⟩

/-! ### Custom glyphs -/

/-- The mask of the 5x8 font leaves a code of 0 to 7. -/
theorem toNat_and_mask8_le (code : Byte) : (code &&& 0b00000111#8).toNat ≤ 7 := by
  rw [BitVec.toNat_and]
  exact Nat.and_le_right

/-- The mask of the 5x10 font leaves one of the four even codes: bits 2 and 1 of the 256 bytes. -/
theorem toNat_and_mask10_mem : ∀ code : Byte, (code &&& 0b00000110#8).toNat ∈ [0, 2, 4, 6] := by decide

/-- Settles O53: the font chooses the mask, and each mask leaves the codes of its font. -/
theorem glyphCodeMask : Obligations.GlyphCodeMask := by
  intro g code
  constructor <;> intro hfont <;> simp only [glyphCode, hfont, if_true, Bool.false_eq_true, if_false, true_and]
  · exact toNat_and_mask8_le code
  · exact toNat_and_mask10_mem code

/-- The low five bits of the row bytes are the rows, in order. -/
@[simp] theorem map_low_glyphRowBytes (first : Nat) (rows : List (BitVec 5)) :
    (glyphRowBytes first rows).map (BitVec.extractLsb' 0 5) = rows := by
  induction rows generalizing first with
  | nil => rfl
  | cons row rows ih => rw [glyphRowBytes_cons, List.map_cons, glyphRowByte_low, ih]

/-- A bitmap has one byte for each row of its font. -/
theorem length_glyphRowBytes_toList {g : LayerParams} (first : Nat) (bitmap : GlyphBitmap g) :
    (glyphRowBytes first bitmap.toList).length = if g.fontMode then 10 else 8 := by
  rw [length_glyphRowBytes, Vector.length_toList, glyphRows]

/-- Settles O54: the bytes are the bitmap's row bytes, which SEND_BYTES sends. -/
theorem glyphRowsGoOutAsData : Obligations.GlyphRowsGoOutAsData := by
  intro g bitmap s
  obtain ⟨t, r, hexec, hresults, hlayer⟩ :=
    layerSendBytes_eq_exec true (glyphRowBytes s.trace.length bitmap.toList) s
  exact ⟨_, t, r, length_glyphRowBytes_toList _ bitmap, map_low_glyphRowBytes _ _, hexec, hresults, hlayer⟩

end Sys2Proof.Machine
end

section
/-! The exceptions family (spec/60_exceptions.md): every instruction runs (R184, R185), nothing happens without a request
(R190), and the first failing primitive ends an operation with `TransportError` (R186, R191). `exec_operation_cases` says
once how an operation can end. -/

namespace Sys2Proof.Machine

/-- Everything an operation can end as (R186): it answers `Ok` after actions that have all succeeded, or `TransportError`
after a failed action with none failed before it; the ghost bit of INITIALIZE goes with the answer. -/
theorem exec_operation_cases {i : Instr} {s t : State} (hi : i.isOperation = true) (h : exec i s = .next t) :
    (∃ added v, t.trace = s.trace ++ added ∧ t.results = s.results ++ [⟨.ok, v⟩] ∧
      (∀ a ∈ added, a.failed = false) ∧ ∀ l f, i = .initialise l f → t.initialized = true) ∨
    (∃ before a v, t.trace = s.trace ++ (before ++ [a]) ∧ t.results = s.results ++ [⟨.transportError, v⟩] ∧
      (∀ b ∈ before, b.failed = false) ∧ a.failed = true ∧ ∀ l f, i = .initialise l f → t.initialized = false) := by
  obtain ⟨added, htrace, -, -, answers, -⟩ := (exec_effect i s h).tr
  obtain ⟨⟨status, v⟩, hres, hstatus, hini⟩ := answers hi
  obtain ⟨rfl, hok⟩ | ⟨rfl, before, a, rfl, hbefore, hfailed⟩ := hstatus
  · exact .inl ⟨added, v, htrace, hres, hok, fun l f e => by simpa using hini l f e⟩
  · exact .inr ⟨before, a, v, htrace, hres, hbefore, hfailed, fun l f e => by simpa using hini l f e⟩

/-- Settles O29: an operation ends with every action successful, or with its first failed one. -/
theorem firstFailureEndsOperation : Obligations.FirstFailureEndsOperation := by
  intro i s t hi h
  obtain ⟨added, v, htrace, hres, hok, -⟩ | ⟨before, a, v, htrace, hres, hbefore, hfailed, -⟩ :=
    exec_operation_cases hi h
  · have hlast : ¬ ∃ a, added.getLast? = some a ∧ a.failed = true := by
      rintro ⟨a, ha, hfailed⟩
      simp [hok a (List.mem_of_getLast? ha)] at hfailed
    exact ⟨added, ⟨.ok, v⟩, htrace, hres,
      List.all_eq_true.2 fun a ha => by simp [hok a (List.mem_of_mem_dropLast ha)], by simpa using hlast, .inl rfl⟩
  · exact ⟨before ++ [a], ⟨.transportError, v⟩, htrace, hres, by simpa using hbefore, by simpa using hfailed, .inr rfl⟩

/-- Settles O30: a failed action is the last of the operation's, and the session state is what its writers leave (O26). -/
theorem transportErrorEntry : Obligations.TransportErrorEntry := by
  rintro i s t hi h ⟨added, htrace, a, ha, hfailed⟩
  obtain ⟨added', v, htrace', -, hok, -⟩ | ⟨before, last, v, htrace', hres, hbefore, hlast, hini⟩ :=
    exec_operation_cases hi h
  · obtain rfl : added = added' := List.append_cancel_left (htrace.symm.trans htrace')
    simp [hok a ha] at hfailed
  · have effect := exec_effect i s h
    obtain ⟨-, hbl, hbacklight, -⟩ := sessionStateWriters i s t h
    exact ⟨before, last, v, by rw [htrace', List.append_assoc], hlast, hbefore, hres, hbl, hbacklight, effect.ini, hini,
      effect.cfg, effect.seq, effect.req⟩

/-- No instruction faults or is refused once decoded: an operation performs its planned actions, and the rest are bytes on
their way to the port. -/
theorem exec_next (i : Instr) (s : State) : ∃ t, exec i s = .next t := by
  cases hi : i.isOperation with
  | false =>
    obtain ⟨b, h⟩ := exec_portByte hi s
    exact ⟨_, h⟩
  | true => exact ⟨_, exec_eq_runPlanned hi s⟩

/-- Settles O36: every instruction runs, and keeps what the statement names. -/
theorem everyInstructionRuns : Obligations.EveryInstructionRuns := by
  intro i s
  obtain ⟨t, h⟩ := exec_next i s
  have effect := exec_effect i s h
  exact ⟨t, h, effect.cfg, effect.seq, effect.req⟩

/-- Settles O38: the idle step with no first request. -/
theorem stepWithoutRequestDoesNothing : Obligations.StepWithoutRequestDoesNothing := by
  intro s hidle hreq
  simp only [step, hidle, hreq]

end Sys2Proof.Machine
end

section
/-! The reset and hazards family (spec/70_reset_and_hazards.md): construction and reset (R210), and what a transfer after a
boot is to the controller (R214). `Params.wf_iff` says which configurations are constructed; the transfers are the frames
and the reads of SEND_BYTE and RECEIVE_BYTE, read strobe by strobe. -/

namespace Sys2Proof.Machine

/-! ### What a strobe is to the controller -/

/-- The kind of transfer of a strobe is the table's entry (R50) for the RS and RNW of the port byte that lowered EN. -/
theorem transfer_port {m : PinMap} (h : m.wf = true) (high : Byte) (rs rnw en bl : Bool) (n : Nibble) :
    (⟨high, port m rs rnw en bl n⟩ : Strobe).transfer m = transferOf rs rnw :=
  congrArg₂ transferOf (roleBit_port h ..) (roleBit_port h ..)

/-- Both strobes of a transfer are of the one kind. -/
theorem transfer_of_mem_pair {m : PinMap} (h : m.wf = true) {high high' : Byte} {rs rnw en bl : Bool} {n n' : Nibble} :
    ∀ k ∈ [(⟨high, port m rs rnw en bl n⟩ : Strobe), ⟨high', port m rs rnw en bl n'⟩],
      k.transfer m = transferOf rs rnw :=
  List.forall_mem_cons.2 ⟨transfer_port h .., List.forall_mem_singleton.2 (transfer_port h ..)⟩

/-- The column RNW = 0 of R50. -/
theorem transferOf_write (rs : Bool) :
    transferOf rs false = if rs then Transfer.characterWrite else Transfer.commandWrite := by
  cases rs <;> rfl

/-- The column RNW = 1 of R50. -/
theorem transferOf_read (rs : Bool) : transferOf rs true = if rs then Transfer.dataRead else Transfer.statusRead := by
  cases rs <;> rfl

/-- The nibbles latched over a frame's two strobes are the payload's, so the byte is the payload. -/
theorem latchedByte_port {m : PinMap} (h : m.wf = true) (high high' : Byte) (rs rnw en bl : Bool) (data : Byte) :
    latchedByte m ⟨high, port m rs rnw en bl (hiNibble data)⟩ ⟨high', port m rs rnw en bl (loNibble data)⟩ = data := by
  rw [latchedByte, nib_port h, nib_port h, joinNibbles_hi_lo]

/-- Settles O34: the two strobes are those of the whole next state (O13, O17), which keeps the controller and
`INITIALIZED`. -/
theorem bootedTransferReachesController : Obligations.BootedTransferReachesController := by
  intro rs s hmap hbooted hphase hok
  constructor
  · intro data
    obtain ⟨sends, -⟩ := sendByteWritesOneFrame rs data s hmap
    refine ⟨_, _, _, sends hok, rfl, latchedByte_port hmap .., ?_, hphase, hbooted⟩
    exact fun k hk => (transfer_of_mem_pair hmap k hk).trans (transferOf_write rs)
  · obtain ⟨s0, s1, h⟩ := Environment.answer_of_allOk_one hok
    obtain ⟨p1, p2, rfl, rfl, receives, -⟩ := receiveByteIsOneTransaction rs s hmap
    refine ⟨_, _, _, receives s0 s1 h, rfl, ?_, hphase, hbooted⟩
    exact fun k hk => (transfer_of_mem_pair hmap k hk).trans (transferOf_read rs)

/-! ### Construction and reset -/

/-- Which configurations are valid: a permutation (R25), the default map under the conventional policy, and a length of
the last INITIALIZE write within its frame. -/
theorem Params.wf_iff (p : Params) :
    p.wf = true ↔ p.pinMap.positions.Nodup ∧ (p.policy = .custom ∨ p.pinMap = PinMap.conventional) ∧
      1 ≤ p.initFinalLen ∧ p.initFinalLen ≤ 4 := by
  simp only [Params.wf, PinMap.wf, Bool.and_eq_true, Bool.or_eq_true, beq_iff_eq, decide_eq_true_eq, and_assoc,
    Nat.succ_le_iff]

/-- Settles O47: construction makes the check of `Params.wf_iff`, and each refusal breaks one of its parts. -/
theorem constructionSetsSessionState : Obligations.ConstructionSetsSessionState := by
  intro p
  have refused := fun invalid => construct_of_not_wf (mt (Params.wf_iff p).1 invalid)
  refine ⟨?_, ?_, ?_, ?_⟩
  · intro hmap hpolicy hpos hlen
    have valid := (Params.wf_iff p).2 ⟨hmap, hpolicy, hpos, hlen⟩
    exact ⟨_, construct_of_wf valid, rfl, rfl, rfl, rfl, rfl, rfl, rfl, rfl⟩
  · exact fun hdup => refused fun ⟨hmap, _⟩ => hdup hmap
  · intro hconventional hother
    refine refused ?_
    rintro ⟨-, hcustom | hmap, -⟩
    · cases hconventional.symm.trans hcustom
    · exact hother hmap
  · intro hlen
    refine refused ?_
    rintro ⟨-, -, hpos, hle⟩
    omega

/-- The invariant holds right after construction with the spec's `INIT_FINAL_LEN`: nothing has been issued, and nothing
is known of the controller. -/
theorem init_inv {p : Params} (valid : p.wf = true) (hlen : p.initFinalLen = 4) : (State.init p valid).Inv :=
  ⟨valid, hlen, rfl, rfl, nofun⟩

/-- Settles O46: reset is construction with the defaults. -/
theorem resetHasInvariant : Obligations.ResetHasInvariant := init_inv Config.params_wf rfl

end Sys2Proof.Machine
end
